-- ==== Sys2Proof/Word.lean ====
section
/-! DEFINITION. The word types of the block and its two small record shapes: three axes, and a 7-byte data block. -/

namespace Sys2Proof

/-- 8 bits (00_scope R6). -/
abbrev Byte := BitVec 8

/-- A host command word, 64 bits (30_encoding R91). -/
abbrev Word := BitVec 64

/-- A device address of the two-wire bus, 7 bits (10_state R26). -/
abbrev DevAddr := BitVec 7

/-- The opaque cause of a bus error, `ERR_W` = 8 bits, never inspected (00_scope R5, 20_memory R64). -/
abbrev BusErr := BitVec 8

/-- The axes 0 = X, 1 = Y, 2 = Z (10_state R29). -/
inductive Axis where
  | x
  | y
  | z
deriving DecidableEq, Repr

/-- One value for each axis (a "vector" of the spec is three signals, 00_scope R4). -/
structure Axes (α : Type) where
  x : α
  y : α
  z : α
deriving DecidableEq, Repr

/-- The entry of one axis. -/
def Axes.get {α : Type} (v : Axes α) : Axis → α
  | .x => v.x
  | .y => v.y
  | .z => v.z

/-- The vector whose entry of axis `i` is `f i`. -/
def Axes.build {α : Type} (f : Axis → α) : Axes α :=
  { x := f .x, y := f .y, z := f .z }

/-- Seven bytes, numbered in the order they are received (00_scope R6, 10_state R32). -/
structure Block where
  b0 : Byte
  b1 : Byte
  b2 : Byte
  b3 : Byte
  b4 : Byte
  b5 : Byte
  b6 : Byte
deriving DecidableEq, Repr

end Sys2Proof
end

