-- ==== Sys2Proof/Config.lean ====
section
/-! DEFINITION. The OPEN parameters of the block (00_scope R5) and the free value of a register that holds no value. -/

namespace Sys2Proof

/-- The two control codes the source names and does not give: OPEN parameters (00_scope R5, 92_eei_decisions D7).
A machine carries them in its state as plain data, and no step writes them (log 4). -/
structure Config where
  codePd : Byte
  codeFuse : Byte
deriving DecidableEq, Repr

/-- The defaults the spec gives for the OPEN parameters: `CODE_PD = 0x00`, `CODE_FUSE = 0x0F`. -/
def Config.default : Config := { codePd := 0x00, codeFuse := 0x0F }

/-- A register "said to hold no value has no defined content" (00_scope R8). What such a register contains is a FREE
VALUE: this constant applied to the number of the drop and to the register's lane (log 5). -/
opaque Config.noValue : Nat → Nat → Byte

end Sys2Proof
end

