-- ==== Sys2Proof/Syntax.lean ====
section
/-! DEFINITION. The instructions: one constructor per row of spec/opcode_table.json (three host commands, eleven
bus-level operations of the sequencer). -/

namespace Sys2Proof

/-- The sensitivity mode (10_state R27). -/
inductive Sens where
  | opt14bit
  | opt16bit
deriving DecidableEq, Repr

/-- The sample rate operand of INIT (10_state R28). -/
inductive Rate where
  | opt8Hz
  | opt100Hz
deriving DecidableEq, Repr

/-- The four settle delays of INIT by name (00_scope R5, 70_reset_and_hazards R262). -/
inductive Duration where
  | tPd1
  | tFuse
  | tPd2
  | tMode
deriving DecidableEq, Repr

/-- One constructor per row of the opcode table. -/
inductive Instr where
  /-- INIT, a host command (30_encoding R92): the fields of the word, `addrValid` telling whether `addr` is used. -/
  | init (rate : Rate) (sens : Sens) (addrValid : Bool) (addr : DevAddr) (bus : Byte)
  /-- SAMPLE, a host command without operands (R94). -/
  | sample
  /-- DECODE, a host command carrying the 7-byte block (R95, R96). -/
  | decode (b : Block)
  /-- OPEN: `BusOpen(bus_id, dev_addr)`, operands from the registers (40_bus_microops R131). -/
  | busOpen
  /-- WR_CTRL_PD: write the power-down code to the control register (R132, 30_encoding R102). -/
  | wrCtrlPd
  /-- WR_CTRL_FUSE: write the fuse-ROM code to the control register (R132, R102). -/
  | wrCtrlFuse
  /-- WR_CTRL_MODE: write the mode byte with sensitivity bit `sens` and rate code `rate` (R132, R103). -/
  | wrCtrlMode (sens : Sens) (rate : Rate)
  /-- SEL_CAL: select register 0x10 (R133). -/
  | selCal
  /-- SEL_STATUS: select register 0x02 (R133). -/
  | selStatus
  /-- SEL_DATA: select register 0x03 (R133). -/
  | selData
  /-- RD_CAL: read the three calibration bytes (R134). -/
  | rdCal
  /-- RD_STATUS: read the status byte (R134). -/
  | rdStatus
  /-- RD_DATA: read the seven data bytes (R134). -/
  | rdData
  /-- DELAY: wait at least the named duration (R136). -/
  | delay (t : Duration)
deriving DecidableEq, Repr

end Sys2Proof
end

