-- ==== Sys2Proof/Machine/State.lean ====
section
/-! DEFINITION. The state of the block (10_state), as plain data: the sequencer phase, the registers, the response
channel, the event history, and the coming moves of the host and answers of the environment. -/

namespace Sys2Proof.Machine

/-- The sequencer phase, the block's program counter (10_state R21, R22). -/
inductive Phase where
  | unconf
  | ready
  | iOpen
  | iPd1
  | iWait1
  | iFuse
  | iWait2
  | iCalSel
  | iCalRd
  | iPd2
  | iWait3
  | iMode
  | iWait4
  | sStSel
  | sStRd
  | sDSel
  | sDRd
deriving DecidableEq, Repr

/-- A register and whether it "holds a value" (00_scope R8, 10_state R45, R46). A register always has contents; the
contents of one that holds no value are a free value after a drop (log 5) and 0 at reset (log 1); reading them is no
fault (log 14), and an array has one status for all its entries (log 15). -/
structure Reg (α : Type) where
  val : α
  held : Bool
deriving DecidableEq, Repr

/-- The transport handle: the bus and device that every later write and read addresses (20_memory R61; log 16). -/
structure Handle where
  bus : Byte
  dev : DevAddr
deriving DecidableEq, Repr

/-- The Sample record (10_state R42): `raw`, three 16-bit integers; `calq`, three 35-bit integers with 19 fraction bits. -/
structure Sample where
  raw : Axes (BitVec 16)
  calq : Axes (BitVec 35)
  overrun : Bool
deriving DecidableEq, Repr

/-- A response (10_state R43, 30_encoding R98, R99): a payload exists only where the kind has one. -/
inductive Response where
  | ok
  | sample (d : Sample)
  | saturated
  | notReady
  | busError (e : BusErr)
  | refusedNotConfigured
  | refusedIllegal
deriving DecidableEq, Repr

/-- The answer to a `BusOpen` or a `BusWrite` as an event records it (20_memory R61, R62). -/
inductive Ack where
  | ok
  | err (e : BusErr)
deriving DecidableEq, Repr

/-- The answer to a `BusRead` as an event records it (20_memory R63). -/
inductive ReadAnswer where
  | ok (bytes : List Byte)
  | err (e : BusErr)
deriving DecidableEq, Repr

/-- The events of the history (10_state R44). A delay's duration is in microseconds. -/
inductive Event where
  | busOpen (bus : Byte) (dev : DevAddr) (a : Ack)
  | busWrite (bytes : List Byte) (a : Ack)
  | busRead (n : Nat) (a : ReadAnswer)
  | delay (micros : Nat)
  | cmd (w : Word)
  | rsp (r : Response)
  | reset
deriving DecidableEq, Repr

/-- One draw of the environment (20_memory R64): success, with the bytes it has to give, or an error. A read of `n`
bytes takes the first `n` of them and an open or a write takes none, so that every answer the environment can give is
some draw and no draw has a wrong shape (40_bus_microops R137; log 3). -/
inductive Answer where
  | ok (data : Block)
  | err (e : BusErr)
deriving DecidableEq, Repr

/-- One move of the host (70_reset_and_hazards R277): it offers a word, asserts Reset, or lets one step pass (log 2). -/
inductive HostMove where
  | cmd (w : Word)
  | reset
  | pause
deriving DecidableEq, Repr

/-- The whole state. INVENTORY.md's '## State' names the rule of each field. -/
structure State where
  /-- The OPEN parameters of this machine; no step writes them (log 4). -/
  config : Config
  /-- Where the sequencer stands (R21). -/
  phase : Phase
  /-- `cfg_valid` (R24). -/
  cfgValid : Bool
  /-- `bus_id` (R25). -/
  busId : Reg Byte
  /-- `dev_addr` (R26). -/
  devAddr : Reg DevAddr
  /-- `sens` (R27). -/
  sens : Reg Sens
  /-- `rate_tmp` (R28). -/
  rateTmp : Reg Rate
  /-- `asa[0..2]` (R29). -/
  asa : Reg (Axes Byte)
  /-- `st1` (R39). -/
  st1 : Reg Byte
  /-- `blk[0..6]` (R40). -/
  blk : Reg Block
  /-- The transport handle (R47(c)). -/
  handle : Option Handle
  /-- The delay timer: the duration it times, no value outside a DELAY (60_exceptions R246; log 17). -/
  timer : Option Duration
  /-- The response channel (R43). -/
  rsp : Option Response
  /-- The event history (R44), oldest first. -/
  trace : List Event
  /-- The host's coming moves (log 2). -/
  host : List HostMove
  /-- The environment's coming answers (log 3). -/
  answers : List Answer
  /-- How many times registers have been dropped, the argument of `Config.noValue` (log 5). -/
  freeCount : Nat
deriving DecidableEq, Repr

/-- The reasons a step stops with a fault. -/
inductive Fault where
  /-- Raised by `exec` of a micro-operation in a state whose phase does not issue it (40_bus_microops R130: only the
  command rules issue micro-operations). Safe: the machine stops where the spec gives no effect; `step` never raises
  it, since it runs the micro-operation of the phase only (log 8). -/
  | notIssued
deriving DecidableEq, Repr

/-- The reasons a step is refused. -/
inductive Refusal where
  /-- An instruction without a meaning in this model; no instruction is. Safe. -/
  | notModelled (mnemonic : String)
deriving DecidableEq, Repr

/-- After Reset (10_state R45, 70_reset_and_hazards R260): phase UNCONF, `cfg_valid` 0, no register holds a value, no
response pending, no handle, history `[Reset]`. The contents 0 of the registers are the model's choice (log 1), as
are the empty lists of moves and answers (log 2, log 3) and the counter (log 5); the parameters have the spec's
defaults (log 4). -/
def State.reset : State :=
  { config := Config.default
    phase := .unconf
    cfgValid := false
    busId := { val := 0, held := false }
    devAddr := { val := 0, held := false }
    sens := { val := .opt14bit, held := false }
    rateTmp := { val := .opt8Hz, held := false }
    asa := { val := { x := 0, y := 0, z := 0 }, held := false }
    st1 := { val := 0, held := false }
    blk := { val := { b0 := 0, b1 := 0, b2 := 0, b3 := 0, b4 := 0, b5 := 0, b6 := 0 }, held := false }
    handle := none
    timer := none
    rsp := none
    trace := [.reset]
    host := []
    answers := []
    freeCount := 0 }

end Sys2Proof.Machine
end

