-- ==== Sys2Proof/Machine/Flags.lean ====
section
/-! DEFINITION. The derived flags (10_state R41, 30_encoding R104, R105): none is stored, no other bit is looked at. -/

namespace Sys2Proof.Machine

/-- DRDY: bit 0 of the status byte. -/
def drdy (st1 : Byte) : Bool := st1.getLsbD 0

/-- DOR: bit 1 of the status byte. -/
def dor (st1 : Byte) : Bool := st1.getLsbD 1

/-- HOFL, the saturation bit: bit 3 of byte 6 of a block. -/
def hofl (b : Block) : Bool := b.b6.getLsbD 3

end Sys2Proof.Machine
end

