-- ==== Sys2Proof/WellFormed.lean ====
section
/-! DEFINITION. Which instructions are well formed: the one side condition the spec puts on an instruction's fields. -/

namespace Sys2Proof

/-- INIT's extra condition (30_encoding R92): the address field must be 0 when `addr_valid` = 0. Every other field of
every instruction is legal at every value (R93 for INIT's enumerants, R95 for DECODE's bytes). -/
def Instr.wellFormed : Instr → Bool
  | .init _ _ addrValid addr _ => addrValid || addr == 0
  | .sample => true
  | .decode _ => true
  | .busOpen => true
  | .wrCtrlPd => true
  | .wrCtrlFuse => true
  | .wrCtrlMode _ _ => true
  | .selCal => true
  | .selStatus => true
  | .selData => true
  | .rdCal => true
  | .rdStatus => true
  | .rdData => true
  | .delay _ => true

end Sys2Proof
end

