-- ==== Sys2Proof/Decode.lean ====
section
/-! DEFINITION. The encodings: host command words (30_encoding R91 to R97, R109) and bus frames (R100 to R103); the
total decoder, rejecting by name, and after it the encoder. -/

namespace Sys2Proof

-- Register addresses (30_encoding R101).
/-- `REG_STATUS`. -/
def regStatus : Byte := 0x02
/-- `REG_DATA`. -/
def regData : Byte := 0x03
/-- `REG_CTRL`. -/
def regCtrl : Byte := 0x0A
/-- `REG_CAL`. -/
def regCal : Byte := 0x10

/-- The sensitivity-select bit of the control register for a mode: `BIT_16` = 0x10 (00_scope R5, 10_state R35). -/
def sensBit : Sens → Byte
  | .opt14bit => 0x00
  | .opt16bit => 0x10

/-- The rate code of a sample rate: `CODE_8HZ` = 0x02, `CODE_100HZ` = 0x06 (00_scope R5). -/
def rateCode : Rate → Byte
  | .opt8Hz => 0x02
  | .opt100Hz => 0x06

/-- The mode byte `m` (30_encoding R103, 41_init R160): a two-way choice of the rate code, 90_conflicts C9. -/
def modeByte (s : Sens) (r : Rate) : Byte := sensBit s ||| rateCode r

/-- The 0/1 coding of the sensitivity mode (10_state R27). -/
def Sens.bit : Sens → BitVec 1
  | .opt14bit => 0
  | .opt16bit => 1

/-- The sensitivity mode of a bit (30_encoding R93: every bit value is a legal enumerant). -/
def Sens.ofBit (b : BitVec 1) : Sens := if b = 1 then .opt16bit else .opt14bit

/-- The 0/1 coding of the sample rate (10_state R28). -/
def Rate.bit : Rate → BitVec 1
  | .opt8Hz => 0
  | .opt100Hz => 1

/-- The sample rate of a bit (30_encoding R93). -/
def Rate.ofBit (b : BitVec 1) : Rate := if b = 1 then .opt100Hz else .opt8Hz

/-- The block of a DECODE word: byte `k` is `w[8k+7 : 8k]` (30_encoding R96). -/
def wordBlock (w : Word) : Block :=
  { b0 := w.extractLsb' 0 8, b1 := w.extractLsb' 8 8, b2 := w.extractLsb' 16 8, b3 := w.extractLsb' 24 8,
    b4 := w.extractLsb' 32 8, b5 := w.extractLsb' 40 8, b6 := w.extractLsb' 48 8 }

/-- What the block puts on one of its ports: a command word of the host, or a transport operation with a frame
(30_encoding R91, R100). OPEN and DELAY have no bit pattern (spec/opcode_table.json). -/
inductive Wire where
  /-- A 64-bit word on the command channel. -/
  | command (w : Word)
  /-- Frames W2 and W1: the bytes of a `BusWrite`, in the order sent. -/
  | busWrite (bytes : List Byte)
  /-- Frame RDn: the count of a `BusRead`. -/
  | busRead (n : Nat)
deriving DecidableEq, Repr

/-- Why a word or a frame is no instruction. The first five are the illegal command words of 30_encoding R109. -/
inductive Reject where
  | reservedOpcode
  | initReservedBits
  | initAddrWithoutValid
  | sampleReservedBits
  | decodeReservedBits
  /-- A byte list that the block never writes (R102, R110). -/
  | unknownFrame
  /-- A count that the block never reads (R102, R110). -/
  | unknownCount
deriving DecidableEq, Repr

/-- The command decoder, total on 64-bit words (30_encoding R97; the names of its rejections are R109's list). -/
def decodeCommand (w : Word) : Except Reject Instr :=
  if w.extractLsb' 60 4 = 0x1 then
    if w.extractLsb' 18 42 ≠ 0 then .error .initReservedBits
    else if w.extractLsb' 15 1 = 0 ∧ w.extractLsb' 8 7 ≠ 0 then .error .initAddrWithoutValid
    else .ok (.init (Rate.ofBit (w.extractLsb' 17 1)) (Sens.ofBit (w.extractLsb' 16 1)) (w.extractLsb' 15 1 == 1)
      (w.extractLsb' 8 7) (w.extractLsb' 0 8))
  else if w.extractLsb' 60 4 = 0x2 then
    if w.extractLsb' 0 60 = 0 then .ok .sample else .error .sampleReservedBits
  else if w.extractLsb' 60 4 = 0x3 then
    if w.extractLsb' 56 4 = 0 then .ok (.decode (wordBlock w)) else .error .decodeReservedBits
  else .error .reservedOpcode

/-- The instruction whose `BusWrite` sends these bytes (30_encoding R102). The two-byte frames of the power-down and
the fuse-ROM write differ by a parameter only, so a machine with `CODE_PD = CODE_FUSE` has one frame for both; the
hardware tells frames apart "by the phase that issues them, not by decoding" (opcode table). -/
def decodeWrite (c : Config) : List Byte → Except Reject Instr
  | [a] =>
    if a = regCal then .ok .selCal
    else if a = regStatus then .ok .selStatus
    else if a = regData then .ok .selData
    else .error .unknownFrame
  | [a, v] =>
    if a ≠ regCtrl then .error .unknownFrame
    else if v = c.codePd then .ok .wrCtrlPd
    else if v = c.codeFuse then .ok .wrCtrlFuse
    else if v = modeByte .opt14bit .opt8Hz then .ok (.wrCtrlMode .opt14bit .opt8Hz)
    else if v = modeByte .opt14bit .opt100Hz then .ok (.wrCtrlMode .opt14bit .opt100Hz)
    else if v = modeByte .opt16bit .opt8Hz then .ok (.wrCtrlMode .opt16bit .opt8Hz)
    else if v = modeByte .opt16bit .opt100Hz then .ok (.wrCtrlMode .opt16bit .opt100Hz)
    else .error .unknownFrame
  | _ => .error .unknownFrame

/-- The instruction whose `BusRead` asks for this count (30_encoding R102). -/
def decodeRead (n : Nat) : Except Reject Instr :=
  if n = 3 then .ok .rdCal
  else if n = 1 then .ok .rdStatus
  else if n = 7 then .ok .rdData
  else .error .unknownCount

/-- The decoder of every encoded form, total. -/
def decodeWire (c : Config) : Wire → Except Reject Instr
  | .command w => decodeCommand w
  | .busWrite bytes => decodeWrite c bytes
  | .busRead n => decodeRead n

/-- INIT's word, bit 63 first (30_encoding R92). -/
def encodeInit (rate : Rate) (sens : Sens) (addrValid : Bool) (addr : DevAddr) (bus : Byte) : Word :=
  (0x1#4 ++ 0#42 ++ rate.bit ++ sens.bit ++ BitVec.ofBool addrValid ++ addr ++ bus : BitVec 64)

/-- SAMPLE's word (30_encoding R94). -/
def encodeSample : Word := 0x2000000000000000

/-- DECODE's word (30_encoding R95, R96). -/
def encodeDecode (b : Block) : Word :=
  (0x30#8 ++ b.b6 ++ b.b5 ++ b.b4 ++ b.b3 ++ b.b2 ++ b.b1 ++ b.b0 : BitVec 64)

/-- The encoder: the word or frame of an instruction, `none` for OPEN and DELAY, which have no bit pattern. -/
def encode (c : Config) : Instr → Option Wire
  | .init rate sens addrValid addr bus => some (.command (encodeInit rate sens addrValid addr bus))
  | .sample => some (.command encodeSample)
  | .decode b => some (.command (encodeDecode b))
  | .busOpen => none
  | .wrCtrlPd => some (.busWrite [regCtrl, c.codePd])
  | .wrCtrlFuse => some (.busWrite [regCtrl, c.codeFuse])
  | .wrCtrlMode sens rate => some (.busWrite [regCtrl, modeByte sens rate])
  | .selCal => some (.busWrite [regCal])
  | .selStatus => some (.busWrite [regStatus])
  | .selData => some (.busWrite [regData])
  | .rdCal => some (.busRead 3)
  | .rdStatus => some (.busRead 1)
  | .rdData => some (.busRead 7)
  | .delay _ => none

/-- The wire of `nbits` table bits `w`, numbered as spec/opcode_table.json numbers them: a 64-bit command word, a
two-byte frame with byte 0 in bits 15..8, a one-byte frame. Other widths carry no row that has a bit pattern. -/
def tableWire (nbits w : Nat) : Option Wire :=
  if nbits = 64 then some (.command (BitVec.ofNat 64 w))
  else if nbits = 16 then some (.busWrite [BitVec.ofNat 8 (w / 256), BitVec.ofNat 8 w])
  else if nbits = 8 then some (.busWrite [BitVec.ofNat 8 w])
  else none

/-- The instruction the decoder reads from table bits, with the default parameters (log 10). -/
def decodeTableWord (nbits w : Nat) : Option Instr :=
  match tableWire nbits w with
  | some wire =>
    match decodeWire Config.default wire with
    | .ok i => some i
    | .error _ => none
  | none => none

end Sys2Proof
end

