-- ==== Sys2Proof/Machine/Operands.lean ====
section
/-! DEFINITION. Operand assembly: INIT's registers (30_encoding R93), the bytes of a read (R105), the axis values
(R106), the durations of the delays (70_reset_and_hazards R262), and the response's signals (R98, R99). -/

namespace Sys2Proof.Machine

/-- `DEV_ADDR_DEFAULT` (00_scope R5). -/
def devAddrDefault : DevAddr := 0x0C

/-- The device address INIT resolves (30_encoding R93). -/
def resolveAddr (addrValid : Bool) (addr : DevAddr) : DevAddr := if addrValid then addr else devAddrDefault

/-- The bytes of a block in block order (10_state R32). -/
def blockBytes (b : Block) : List Byte := [b.b0, b.b1, b.b2, b.b3, b.b4, b.b5, b.b6]

/-- `le16s` (00_scope R7): low byte first, two's complement; read the result with `BitVec.toInt`. -/
def le16 (lo hi : Byte) : BitVec 16 := hi ++ lo

/-- The raw reading of an axis (30_encoding R105, R106): byte pairs (0,1), (2,3), (4,5). -/
def rawAxis (b : Block) : Axis → BitVec 16
  | .x => le16 b.b0 b.b1
  | .y => le16 b.b2 b.b3
  | .z => le16 b.b4 b.b5

/-- The trim bytes of a calibration read: byte `i` to axis `i` (41_init R156). -/
def trimBytes (data : Block) : Axes Byte := { x := data.b0, y := data.b1, z := data.b2 }

/-- The minimum duration of a delay in microseconds (70_reset_and_hazards R262). -/
def durationMicros : Duration → Nat
  | .tPd1 => 1000
  | .tFuse => 1000
  | .tPd2 => 100
  | .tMode => 100

/-- The least number of cycles of a delay with a clock of `fClk` Hz: `ceil(t_min * F_CLK)` (40_bus_microops R136).
No step reads it: the model has no time (log 9). -/
def minCycles (t : Duration) (fClk : Nat) : Nat := (durationMicros t * fClk + 999999) / 1000000

/-- The kind code of a response, 3 bits (30_encoding R98). -/
def Response.kind : Response → BitVec 3
  | .ok => 0
  | .sample _ => 1
  | .saturated => 2
  | .notReady => 3
  | .busError _ => 4
  | .refusedNotConfigured => 5
  | .refusedIllegal => 6

/-- The payload signal `rsp_raw` (30_encoding R99): carries a value for `RSP_SAMPLE` only. -/
def Response.raw : Response → Option (Axes (BitVec 16))
  | .sample d => some d.raw
  | _ => none

/-- The payload signal `rsp_calq` (R99). -/
def Response.calq : Response → Option (Axes (BitVec 35))
  | .sample d => some d.calq
  | _ => none

/-- The payload signal `rsp_overrun` (R99). -/
def Response.overrun : Response → Option Bool
  | .sample d => some d.overrun
  | _ => none

/-- The payload signal `rsp_err` (R99): the transport's cause, for `RSP_BUS_ERROR` only. -/
def Response.err : Response → Option BusErr
  | .busError e => some e
  | _ => none

end Sys2Proof.Machine
end

