-- ==== Sys2Proof/Machine/SampleDecoder.lean ====
section
/-! DEFINITION. The Sample Decoder (43_decode R200 to R216): a pure function of a block, the sensitivity mode and the
trim bytes. -/

namespace Sys2Proof.Machine

/-- The integer scalar `K(sens)` over 2^19 (43_decode R200, R206). -/
def scalarK : Sens → Int
  | .opt14bit => 1228
  | .opt16bit => 307

/-- The numerator `A = c + 128` of the calibration multiplier over 256, 128 to 383 (43_decode R203, 30_encoding R107). -/
def trimNumerator (c : Byte) : Int := c.toNat + 128

/-- The exact product `K(sens) * (asa + 128) * raw` (43_decode R206). -/
def calProduct (sens : Sens) (trim : Byte) (raw : BitVec 16) : Int := scalarK sens * trimNumerator trim * raw.toInt

/-- The calibrated output of one axis, 35 bits two's complement (43_decode R206, 30_encoding R108). -/
def calq (sens : Sens) (trim : Byte) (raw : BitVec 16) : BitVec 35 := BitVec.ofInt 35 (calProduct sens trim raw)

/-- `Decode(b, sens, asa)` (43_decode R200): absence on saturation (R201), else a Sample with overrun 0 (R207). -/
def sampleDecode (b : Block) (sens : Sens) (asa : Axes Byte) : Option Sample :=
  if hofl b then none
  else some
    { raw := Axes.build (rawAxis b)
      calq := Axes.build (fun i => calq sens (asa.get i) (rawAxis b i))
      overrun := false }

/-- The response a decoded block gives (42_sample R189, 43_decode R212): saturation, or the Sample with the overrun
flag of the caller that has status-byte context. -/
def decodeResponse (d : Option Sample) (overrun : Bool) : Response :=
  match d with
  | none => .saturated
  | some x => .sample { x with overrun := overrun }

end Sys2Proof.Machine
end

