-- ==== Sys2Proof/Machine/Ops.lean ====
section
/-! DEFINITION. The named operations over the state: phases and their successors, the history and the response
channel, registers written and dropped, the transport operations, the bus error (this hardware's exception), Reset. -/

namespace Sys2Proof.Machine

/-- What a step or a meaning answers. -/
abbrev Out := Host.Outcome State Fault Refusal

-- Phases.

/-- The idle phases, in which alone a command is accepted (10_state R22). -/
def Phase.isIdle : Phase → Bool
  | .unconf => true
  | .ready => true
  | _ => false

/-- The INIT phases (10_state R22). -/
def Phase.inInit : Phase → Bool
  | .iOpen => true
  | .iPd1 => true
  | .iWait1 => true
  | .iFuse => true
  | .iWait2 => true
  | .iCalSel => true
  | .iCalRd => true
  | .iPd2 => true
  | .iWait3 => true
  | .iMode => true
  | .iWait4 => true
  | _ => false

/-- The SAMPLE phases (10_state R22). -/
def Phase.inSample : Phase → Bool
  | .sStSel => true
  | .sStRd => true
  | .sDSel => true
  | .sDRd => true
  | _ => false

/-- The phases in which a configuration is valid: READY and the SAMPLE phases (10_state R23). -/
def Phase.configured : Phase → Bool
  | .ready => true
  | .sStSel => true
  | .sStRd => true
  | .sDSel => true
  | .sDRd => true
  | _ => false

/-- The delay that a phase times, if it is a wait (41_init R152). -/
def Phase.wait : Phase → Option Duration
  | .iWait1 => some .tPd1
  | .iWait2 => some .tFuse
  | .iWait3 => some .tPd2
  | .iWait4 => some .tMode
  | _ => none

/-- The column "on ok" of the phase tables (41_init R152, 42_sample R182): the successor of a phase whose
micro-operation completes, `sDSel` after `sStRd` being the successor when DRDY is set. -/
def Phase.onOk : Phase → Phase
  | .unconf => .unconf
  | .ready => .ready
  | .iOpen => .iPd1
  | .iPd1 => .iWait1
  | .iWait1 => .iFuse
  | .iFuse => .iWait2
  | .iWait2 => .iCalSel
  | .iCalSel => .iCalRd
  | .iCalRd => .iPd2
  | .iPd2 => .iWait3
  | .iWait3 => .iMode
  | .iMode => .iWait4
  | .iWait4 => .ready
  | .sStSel => .sStRd
  | .sStRd => .sDSel
  | .sDSel => .sDRd
  | .sDRd => .ready

/-- The micro-operation that the current phase issues (41_init R152, 42_sample R182); none in an idle phase
(40_bus_microops R137). The mode byte's operands are the registers, read on entry to `I_MODE` (41_init R159, R160). -/
def State.microOp (s : State) : Option Instr :=
  match s.phase with
  | .unconf => none
  | .ready => none
  | .iOpen => some .busOpen
  | .iPd1 => some .wrCtrlPd
  | .iWait1 => some (.delay .tPd1)
  | .iFuse => some .wrCtrlFuse
  | .iWait2 => some (.delay .tFuse)
  | .iCalSel => some .selCal
  | .iCalRd => some .rdCal
  | .iPd2 => some .wrCtrlPd
  | .iWait3 => some (.delay .tPd2)
  | .iMode => some (.wrCtrlMode s.sens.val s.rateTmp.val)
  | .iWait4 => some (.delay .tMode)
  | .sStSel => some .selStatus
  | .sStRd => some .rdStatus
  | .sDSel => some .selData
  | .sDRd => some .rdData

/-- `phase <- p`; the delay timer is loaded when `p` is a wait and holds no value otherwise (60_exceptions R246). -/
def State.enter (p : Phase) (s : State) : State := { s with phase := p, timer := p.wait }

/-- Move to the successor of the current phase. -/
def State.advance (s : State) : State := s.enter s.phase.onOk

-- The outside: the host's moves and the environment's answers.

/-- The host's move taken: `moves` are the coming ones. -/
def State.withHost (moves : List HostMove) (s : State) : State := { s with host := moves }

/-- The environment's answer taken: `rest` are the coming ones. -/
def State.withAnswers (rest : List Answer) (s : State) : State := { s with answers := rest }

-- The history and the response channel.

/-- `trace += e` (10_state R44). -/
def State.record (e : Event) (s : State) : State := { s with trace := s.trace ++ [e] }

/-- `respond r`: the response is on the response channel and in the history (00_scope R7, 10_state R43). -/
def State.respond (r : Response) (s : State) : State := ({ s with rsp := some r }).record (.rsp r)

/-- A command word is taken: `trace += Cmd(w)`. The host has taken the response before (70_reset_and_hazards R277), so
the response channel is free (log 7). -/
def State.accept (w : Word) (s : State) : State := ({ s with rsp := none }).record (.cmd w)

/-- A word answered at once and with no other effect (60_exceptions R235, R236). -/
def State.refuse (w : Word) (r : Response) (s : State) : State := (s.accept w).respond r

-- Registers.

/-- A register written with `v`. -/
def Reg.write {α : Type} (v : α) : Reg α := { val := v, held := true }

/-- A register that holds no value; `v` is what its contents happen to be. -/
def Reg.drop {α : Type} (v : α) : Reg α := { val := v, held := false }

/-- The `lane`-th free byte of the current drop (log 5). -/
def State.freeByte (s : State) (lane : Nat) : Byte := Config.noValue s.freeCount lane

/-- `asa[0..2]` hold no value (41_init R151). -/
def State.dropAsa (s : State) : State :=
  { s with
    asa := Reg.drop { x := s.freeByte 0, y := s.freeByte 1, z := s.freeByte 2 }
    freeCount := s.freeCount + 1 }

/-- `rate_tmp` holds no value (41_init R163). -/
def State.dropRate (s : State) : State :=
  { s with
    rateTmp := Reg.drop (Rate.ofBit ((s.freeByte 3).extractLsb' 0 1))
    freeCount := s.freeCount + 1 }

/-- `bus_id`, `dev_addr`, `sens`, `rate_tmp`, `asa[]` hold no value (41_init R164). -/
def State.dropConfig (s : State) : State :=
  { s with
    busId := Reg.drop (s.freeByte 4)
    devAddr := Reg.drop ((s.freeByte 5).extractLsb' 0 7)
    sens := Reg.drop (Sens.ofBit ((s.freeByte 6).extractLsb' 0 1))
    rateTmp := Reg.drop (Rate.ofBit ((s.freeByte 3).extractLsb' 0 1))
    asa := Reg.drop { x := s.freeByte 0, y := s.freeByte 1, z := s.freeByte 2 }
    freeCount := s.freeCount + 1 }

/-- `st1`, `blk[]` hold no value: the end of every SAMPLE (42_sample R189, R190; 92_eei_decisions D15). -/
def State.dropTransients (s : State) : State :=
  { s with
    st1 := Reg.drop (s.freeByte 7)
    blk := Reg.drop
      { b0 := s.freeByte 8, b1 := s.freeByte 9, b2 := s.freeByte 10, b3 := s.freeByte 11, b4 := s.freeByte 12,
        b5 := s.freeByte 13, b6 := s.freeByte 14 }
    freeCount := s.freeCount + 1 }

-- Ends of commands.

/-- The last step of INIT (41_init R163). -/
def State.completeInit (s : State) : State :=
  ((({ s with cfgValid := true }).dropRate).enter .ready).respond .ok

/-- The end of a SAMPLE with a response (42_sample R185, R189). -/
def State.endSample (r : Response) (s : State) : State := (s.dropTransients.enter .ready).respond r

/-- TAKING THE BUS ERROR, this hardware's exception, one operation for every transport operation (40_bus_microops
R135, 60_exceptions R232, R241). Nothing is saved; the response carries the cause unchanged. An INIT ends in UNCONF
with its registers and its handle dropped and no `cfg_valid` (41_init R164); a SAMPLE ends in READY with its
configuration unchanged and its transients dropped (42_sample R190). There is no return from it (R242). -/
def State.busError (e : BusErr) (s : State) : State :=
  if s.phase.inInit then (({ s.dropConfig with cfgValid := false, handle := none }).enter .unconf).respond (.busError e)
  else s.endSample (.busError e)

/-- THE RESET EVENT (10_state R45, 70_reset_and_hazards R260, R271), in any phase: the state after reset, no response
and no transport operation; the parameters, what is still to come from outside and the free values' counter stay (log 13). -/
def State.takeReset (s : State) : State :=
  { State.reset with config := s.config, host := s.host, answers := s.answers, freeCount := s.freeCount }

-- Transport operations.

/-- A micro-operation executed where its phase issues it; anywhere else the spec gives it no effect (log 8). -/
def issuing (i : Instr) (s : State) (run : Out) : Out := if s.microOp = some i then run else .fault .notIssued

/-- `BusOpen` or `BusWrite` (20_memory R61, R62): `ev` is its event, `onOk` what follows an ok. With no answer the
operation blocks (R65; log 6). -/
def transportAck (ev : Ack → Event) (onOk : State → State) (s : State) : Out :=
  match s.answers with
  | [] => .next s
  | .ok _ :: rest => .next (onOk ((s.withAnswers rest).record (ev .ok)))
  | .err e :: rest => .next (((s.withAnswers rest).record (ev (.err e))).busError e)

/-- `BusRead(n)` (20_memory R63): the event holds exactly `n` bytes in the order received; `onOk` gets the draw they
are the first bytes of. With no answer the operation blocks (R65; log 6). -/
def transportRead (n : Nat) (onOk : Block → State → State) (s : State) : Out :=
  match s.answers with
  | [] => .next s
  | .ok data :: rest =>
    .next (onOk data ((s.withAnswers rest).record (.busRead n (.ok ((blockBytes data).take n)))))
  | .err e :: rest => .next (((s.withAnswers rest).record (.busRead n (.err e))).busError e)

/-- REGWR(0x0A, v) (40_bus_microops R132; 20_memory R68): one write of the address byte and the value byte. -/
def regWrite (v : Byte) (s : State) : Out := transportAck (.busWrite [regCtrl, v]) State.advance s

/-- REGSEL(addr) (40_bus_microops R133): one write of the address byte. -/
def regSelect (addr : Byte) (s : State) : Out := transportAck (.busWrite [addr]) State.advance s

end Sys2Proof.Machine
end

