-- ==== Sys2Proof/Machine/Commands.lean ====
section
/-! DEFINITION. The meanings of the three host commands (41_init R151, 42_sample R181, 43_decode R212, 60_exceptions
R236): what the step that accepts the word does. In a phase that is not idle no command is accepted and the offered
word waits (R236), so the state stays as it is (log 11). -/

namespace Sys2Proof.Machine

/-- The registers and the phase of an accepted INIT (41_init R151). -/
def State.beginInit (rate : Rate) (sens : Sens) (dev : DevAddr) (bus : Byte) (s : State) : State :=
  (({ s with
    busId := Reg.write bus
    devAddr := Reg.write dev
    sens := Reg.write sens
    rateTmp := Reg.write rate
    cfgValid := false
    handle := none }).dropAsa).enter .iOpen

/-- INIT. An ill-formed INIT is an illegal word and refused (30_encoding R97, R109; 60_exceptions R235;
log 18). -/
def execInit (rate : Rate) (sens : Sens) (addrValid : Bool) (addr : DevAddr) (bus : Byte) (s : State) : Out :=
  if s.phase.isIdle then
    if (Instr.init rate sens addrValid addr bus).wellFormed then
      .next ((s.accept (encodeInit rate sens addrValid addr bus)).beginInit rate sens (resolveAddr addrValid addr) bus)
    else .next (s.refuse (encodeInit rate sens addrValid addr bus) .refusedIllegal)
  else .next s

/-- SAMPLE: refused without a configuration (60_exceptions R236), else the first SAMPLE phase (42_sample R181). -/
def execSample (s : State) : Out :=
  if s.phase.isIdle then
    if s.cfgValid then .next ((s.accept encodeSample).enter .sStSel)
    else .next (s.refuse encodeSample .refusedNotConfigured)
  else .next s

/-- DECODE: refused without a configuration (43_decode R213), else decoded and answered in this step, the phase
staying READY and no register written (R212). -/
def execDecode (b : Block) (s : State) : Out :=
  if s.phase.isIdle then
    if s.cfgValid then
      .next ((s.accept (encodeDecode b)).respond (decodeResponse (sampleDecode b s.sens.val s.asa.val) false))
    else .next (s.refuse (encodeDecode b) .refusedNotConfigured)
  else .next s

end Sys2Proof.Machine
end

