-- ==== Sys2Proof/Machine/MicroOps.lean ====
section
/-! DEFINITION. The meanings of the eleven micro-operations (40_bus_microops R130 to R136) with what the command rules
do on their completion (41_init R152 to R164, 42_sample R182 to R190). -/

namespace Sys2Proof.Machine

/-- OPEN (40_bus_microops R131, 41_init R153): on ok the handle of this bus and device is held. -/
def execBusOpen (s : State) : Out :=
  issuing .busOpen s
    (transportAck (.busOpen s.busId.val s.devAddr.val)
      (fun t => ({ t with handle := some { bus := t.busId.val, dev := t.devAddr.val } }).advance) s)

/-- WR_CTRL_PD (41_init R154, R158): the code alone, no sensitivity bit. -/
def execWrCtrlPd (s : State) : Out := issuing .wrCtrlPd s (regWrite s.config.codePd s)

/-- WR_CTRL_FUSE (41_init R155). -/
def execWrCtrlFuse (s : State) : Out := issuing .wrCtrlFuse s (regWrite s.config.codeFuse s)

/-- WR_CTRL_MODE (41_init R160, R161). -/
def execWrCtrlMode (sens : Sens) (rate : Rate) (s : State) : Out :=
  issuing (.wrCtrlMode sens rate) s (regWrite (modeByte sens rate) s)

/-- SEL_CAL (41_init R156). -/
def execSelCal (s : State) : Out := issuing .selCal s (regSelect regCal s)

/-- SEL_STATUS (42_sample R183). -/
def execSelStatus (s : State) : Out := issuing .selStatus s (regSelect regStatus s)

/-- SEL_DATA (42_sample R186). -/
def execSelData (s : State) : Out := issuing .selData s (regSelect regData s)

/-- RD_CAL (41_init R156): the three bytes into `asa[]`. -/
def execRdCal (s : State) : Out :=
  issuing .rdCal s (transportRead 3 (fun data t => ({ t with asa := Reg.write (trimBytes data) }).advance) s)

/-- What follows the status byte, in the step that stores it (42_sample R184, R185): the DRDY test. -/
def State.statusRead (st : Byte) (s : State) : State :=
  let t := { s with st1 := Reg.write st }
  if drdy st then t.advance else t.endSample .notReady

/-- RD_STATUS (42_sample R184, R185). -/
def execRdStatus (s : State) : Out := issuing .rdStatus s (transportRead 1 (fun data t => t.statusRead data.b0) s)

/-- What follows the data block, in the step that stores it (42_sample R187 to R189): decoding with the current `sens`
and `asa[]`, and the overrun flag from the status byte read before. -/
def State.dataRead (b : Block) (s : State) : State :=
  let t := { s with blk := Reg.write b }
  t.endSample (decodeResponse (sampleDecode t.blk.val t.sens.val t.asa.val) (dor t.st1.val))

/-- RD_DATA (42_sample R187, R188, R189). -/
def execRdData (s : State) : Out := issuing .rdData s (transportRead 7 (fun data t => t.dataRead data) s)

/-- DELAY (40_bus_microops R136): a step that records its event and always completes; the wait of phase `I_WAIT4` ends
the INIT (41_init R163). -/
def execDelay (t : Duration) (s : State) : Out :=
  issuing (.delay t) s
    (.next (if s.phase = .iWait4 then (s.record (.delay (durationMicros t))).completeInit
      else (s.record (.delay (durationMicros t))).advance))

end Sys2Proof.Machine
end

