-- ==== Sys2Proof/Machine/Dispatch.lean ====
section
/-! DEFINITION. The one dispatch: every constructor of Instr, one direct call of its meaning. -/

namespace Sys2Proof.Machine

def exec (i : Instr) (s : State) : Host.Outcome State Fault Refusal :=
  match i with
  | .init rate sens addrValid addr bus => Sys2Proof.Machine.execInit rate sens addrValid addr bus s
  | .sample => Sys2Proof.Machine.execSample s
  | .decode b => Sys2Proof.Machine.execDecode b s
  | .busOpen => Sys2Proof.Machine.execBusOpen s
  | .wrCtrlPd => Sys2Proof.Machine.execWrCtrlPd s
  | .wrCtrlFuse => Sys2Proof.Machine.execWrCtrlFuse s
  | .wrCtrlMode sens rate => Sys2Proof.Machine.execWrCtrlMode sens rate s
  | .selCal => Sys2Proof.Machine.execSelCal s
  | .selStatus => Sys2Proof.Machine.execSelStatus s
  | .selData => Sys2Proof.Machine.execSelData s
  | .rdCal => Sys2Proof.Machine.execRdCal s
  | .rdStatus => Sys2Proof.Machine.execRdStatus s
  | .rdData => Sys2Proof.Machine.execRdData s
  | .delay t => Sys2Proof.Machine.execDelay t s

end Sys2Proof.Machine
end

