-- ==== Sys2Proof/Machine/Fetch.lean ====
section
/-! DEFINITION. What the next step does: the host's move at this step, the decoded command word in an idle phase
(60_exceptions R236), the micro-operation of the phase in the others (40_bus_microops R130, R137); and the placing of
one instruction where the next step takes it from. -/

namespace Sys2Proof.Machine

/-- What a step finds to do, with the state after the host's move has been taken. -/
inductive Fetched where
  /-- Reset is asserted (70_reset_and_hazards R260). -/
  | reset (s : State)
  /-- An instruction to execute. -/
  | run (i : Instr) (s : State)
  /-- An offered word that is no command (60_exceptions R235). -/
  | illegal (w : Word) (s : State)
  /-- Nothing is enabled: the block is idle and no word is offered (log 6). -/
  | wait (s : State)
deriving DecidableEq, Repr

/-- The sequencer's side of a fetch: the micro-operation of the phase, if it issues one. -/
def fetchMicroOp (s : State) : Fetched :=
  match s.microOp with
  | some i => .run i s
  | none => .wait s

/-- An offered word in an idle phase: decoded by 30_encoding R97, in either idle phase and with nothing else deciding
(R111). -/
def fetchWord (w : Word) (s : State) : Fetched :=
  match decodeCommand w with
  | .ok i => .run i s
  | .error _ => .illegal w s

/-- The host's move and then the sequencer's. A Reset is taken at once, in any phase (R271). An offered word is
accepted in an idle phase and otherwise waits while the sequencer goes on (60_exceptions R236). -/
def fetch (s : State) : Fetched :=
  match s.host with
  | [] => fetchMicroOp s
  | .reset :: rest => .reset (s.withHost rest)
  | .pause :: rest => fetchMicroOp (s.withHost rest)
  | .cmd w :: rest => if s.phase.isIdle then fetchWord w (s.withHost rest) else fetchMicroOp s

/-- The phase that issues a micro-operation with this frame (41_init R152, 42_sample R182), for `placeFrame`. -/
def issuingPhase : Instr → Phase
  | .wrCtrlPd => .iPd1
  | .wrCtrlFuse => .iFuse
  | .wrCtrlMode _ _ => .iMode
  | .selCal => .iCalSel
  | .selStatus => .sStSel
  | .selData => .sDSel
  | _ => .unconf

/-- A draw that answers ok, for `placeFrame` when the environment has none. -/
def anAnswer : Answer := .ok { b0 := 0, b1 := 0, b2 := 0, b3 := 0, b4 := 0, b5 := 0, b6 := 0 }

/-- A word offered by the host so that the next step accepts it: at the head of the host's moves, in an idle phase. -/
def State.placeWord (w : Word) (s : State) : State :=
  let t := { s with host := .cmd w :: s.host }
  if s.phase.isIdle then t else t.enter (if s.cfgValid then .ready else .unconf)

/-- A frame that the next step sends: the phase that issues it, with `cfg_valid` and the handle as that phase has them
(10_state R23, 20_memory R66), the mode byte's registers, the default parameters, a host that lets the step pass and
an answer (log 10). -/
def State.placeFrame (i : Instr) (s : State) : State :=
  let t : State := { s with
    config := Config.default
    cfgValid := (issuingPhase i).configured
    handle := some { bus := s.busId.val, dev := s.devAddr.val }
    host := .pause :: s.host
    answers := if s.answers = [] then [anAnswer] else s.answers }
  let u : State := match i with
    | .wrCtrlMode sens rate => { t with sens := Reg.write sens, rateTmp := Reg.write rate }
    | _ => t
  u.enter (issuingPhase i)

/-- The instruction of these table bits placed where the next step takes it from: a 64-bit word on the command channel,
whatever it is; a frame in the phase that sends it; nothing where the bits are no frame of the block. -/
def State.placeBits (nbits w : Nat) (s : State) : State :=
  if nbits = 64 then s.placeWord (BitVec.ofNat 64 w)
  else
    match decodeTableWord nbits w with
    | some i => s.placeFrame i
    | none => s

end Sys2Proof.Machine
end

