-- ==== Sys2Proof/Machine/Step.lean ====
section
/-! DEFINITION. The step: what is fetched is executed. -/

namespace Sys2Proof.Machine

/-- One step of the block: Reset, an accepted command, a refused illegal word, the micro-operation of the phase, or
waiting (60_exceptions R235, R236, R243; 70_reset_and_hazards R260). -/
def step (s : State) : Host.Outcome State Fault Refusal :=
  match fetch s with
  | .reset t => .next t.takeReset
  | .run i t => exec i t
  | .illegal w t => .next (t.refuse w .refusedIllegal)
  | .wait t => .next t

/-- The instruction of `nbits` table bits `w` placed so that the very next step runs it (log 10). -/
def State.withFetchWord (s : State) (nbits w : Nat) : State := s.placeBits nbits w

end Sys2Proof.Machine
end

