-- ==== Sys2Proof/Machine/Assembler.lean ====
section
/-! DEFINITION. The host's side of a program: the spelled commands and their words (30_encoding R112), and the host
loop POLL (R113). No step of the block reads this file. -/

namespace Sys2Proof.Machine

/-- A command as a program spells it (30_encoding R112); `addr` is absent or present, `dotWord` is `.word`. -/
inductive Spelled where
  | init (bus : Byte) (addr : Option DevAddr) (sens : Sens) (rate : Rate)
  | sample
  | decode (b : Block)
  | dotWord (w : Word)
deriving DecidableEq, Repr

/-- The word of a spelled command: `addr=` absent means `addr_valid` = 0 and address field 0 (30_encoding R112). -/
def Spelled.word : Spelled → Word
  | .init bus none sens rate => encodeInit rate sens false 0 bus
  | .init bus (some a) sens rate => encodeInit rate sens true a bus
  | .sample => encodeSample
  | .decode b => encodeDecode b
  | .dotWord w => w

/-- A program's commands placed as the host's moves (log 12). -/
def State.offerAll (cs : List Spelled) (s : State) : State := { s with host := s.host ++ cs.map (fun c => .cmd c.word) }

/-- One turn of the host loop POLL (30_encoding R113): when the last response is not-ready and the host has no other
move, it offers SAMPLE again. -/
def State.poll (s : State) : State :=
  if s.phase.isIdle ∧ s.host = [] ∧ s.rsp = some .notReady then { s with host := [.cmd encodeSample] } else s

end Sys2Proof.Machine
end

