-- ==== Sys2Proof/Safety.lean ====
section
/-! DEFINITION. The terms claims are stated in: readings of the event history and the invariants of the machine. -/

namespace Sys2Proof.Machine

-- Readings of the history.

/-- The byte that an event successfully wrote to `REG_CTRL`, if it did. -/
def Event.ctrlWritten : Event → Option Byte
  | .busWrite [a, v] .ok => if a = regCtrl then some v else none
  | _ => none

/-- The last byte successfully written to `REG_CTRL` in a history: all the block knows of the chip's mode (10_state
R38). -/
def lastCtrl (t : List Event) : Option Byte := t.foldl (fun last e => e.ctrlWritten.or last) none

/-- The events since the last command word was taken, one event further. -/
def afterCmd (sofar : List Event) : Event → List Event
  | .cmd _ => []
  | .reset => []
  | .busOpen bus dev a => sofar ++ [.busOpen bus dev a]
  | .busWrite bytes a => sofar ++ [.busWrite bytes a]
  | .busRead n a => sofar ++ [.busRead n a]
  | .delay m => sofar ++ [.delay m]
  | .rsp r => sofar ++ [.rsp r]

/-- The events since the last command word was taken (or since Reset). -/
def sinceCmd (t : List Event) : List Event := t.foldl afterCmd []

/-- Whether an event is a command word taken. -/
def Event.isCmd : Event → Bool
  | .cmd _ => true
  | _ => false

/-- Whether an event is a response. -/
def Event.isRsp : Event → Bool
  | .rsp _ => true
  | _ => false

/-- The byte lists that the block can ever write (30_encoding R102). -/
def knownFrames (c : Config) : List (List Byte) :=
  [[0x0A, c.codePd], [0x0A, c.codeFuse], [0x0A, 0x02], [0x0A, 0x06], [0x0A, 0x12], [0x0A, 0x16], [0x10], [0x02], [0x03]]

/-- An event the block may cause: a known frame, a known count answered with exactly that many bytes, one of the delays'
durations (30_encoding R102, 20_memory R63, 40_bus_microops R136). -/
def Event.known (c : Config) : Event → Bool
  | .busWrite bytes _ => (knownFrames c).contains bytes
  | .busRead n (.ok bytes) => (n == 1 || n == 3 || n == 7) && bytes.length == n
  | .busRead n (.err _) => n == 1 || n == 3 || n == 7
  | .delay m => m == 1000 || m == 100
  | .busOpen _ _ _ => true
  | .cmd _ => true
  | .rsp _ => true
  | .reset => true

/-- The events of a whole INIT when nothing fails, from the registers that its phases read and write (41_init R150). -/
def initScript (s : State) : List Event :=
  [.busOpen s.busId.val s.devAddr.val .ok,
   .busWrite [0x0A, s.config.codePd] .ok, .delay 1000,
   .busWrite [0x0A, s.config.codeFuse] .ok, .delay 1000,
   .busWrite [0x10] .ok, .busRead 3 (.ok [s.asa.val.x, s.asa.val.y, s.asa.val.z]),
   .busWrite [0x0A, s.config.codePd] .ok, .delay 100,
   .busWrite [0x0A, modeByte s.sens.val s.rateTmp.val] .ok, .delay 100]

/-- The events of a SAMPLE up to the data select when nothing fails (42_sample R180). -/
def sampleScript (s : State) : List Event :=
  [.busWrite [0x02] .ok, .busRead 1 (.ok [s.st1.val]), .busWrite [0x03] .ok]

/-- How many events of its command's script lie before a phase (41_init R152, 42_sample R182). -/
def Phase.position : Phase → Nat
  | .unconf => 0
  | .ready => 0
  | .iOpen => 0
  | .iPd1 => 1
  | .iWait1 => 2
  | .iFuse => 3
  | .iWait2 => 4
  | .iCalSel => 5
  | .iCalRd => 6
  | .iPd2 => 7
  | .iWait3 => 8
  | .iMode => 9
  | .iWait4 => 10
  | .sStSel => 0
  | .sStRd => 1
  | .sDSel => 2
  | .sDRd => 3

/-- The event of a micro-operation whose transport operation answers `err(e)` (20_memory R61 to R63); DELAY and the
commands have none. -/
def failedEvent (i : Instr) (e : BusErr) (s : State) : Option Event :=
  match i with
  | .busOpen => some (.busOpen s.busId.val s.devAddr.val (.err e))
  | .wrCtrlPd => some (.busWrite [0x0A, s.config.codePd] (.err e))
  | .wrCtrlFuse => some (.busWrite [0x0A, s.config.codeFuse] (.err e))
  | .wrCtrlMode sens rate => some (.busWrite [0x0A, modeByte sens rate] (.err e))
  | .selCal => some (.busWrite [0x10] (.err e))
  | .selStatus => some (.busWrite [0x02] (.err e))
  | .selData => some (.busWrite [0x03] (.err e))
  | .rdCal => some (.busRead 3 (.err e))
  | .rdStatus => some (.busRead 1 (.err e))
  | .rdData => some (.busRead 7 (.err e))
  | .delay _ => none
  | .init _ _ _ _ _ => none
  | .sample => none
  | .decode _ => none

/-- The events of a transport operation (20_memory R60). -/
def Event.isTransport : Event → Bool
  | .busOpen _ _ _ => true
  | .busWrite _ _ => true
  | .busRead _ _ => true
  | .delay _ => false
  | .cmd _ => false
  | .rsp _ => false
  | .reset => false

-- Invariants.

/-- `cfg_valid` = 1 exactly in READY and the SAMPLE phases (10_state R23). -/
abbrev State.PhaseMatchesCfg (s : State) : Prop := s.cfgValid = s.phase.configured

/-- The phases in which `bus_id`, `dev_addr` and `sens` hold values: all but UNCONF. -/
def Phase.configHeld : Phase → Bool
  | .unconf => false
  | _ => true

/-- The phases in which `asa[]` hold values: after the calibration read of INIT, READY and SAMPLE. -/
def Phase.trimsHeld : Phase → Bool
  | .unconf => false
  | .iOpen => false
  | .iPd1 => false
  | .iWait1 => false
  | .iFuse => false
  | .iWait2 => false
  | .iCalSel => false
  | .iCalRd => false
  | _ => true

/-- The phases in which `st1` holds a value: after the status read. -/
def Phase.statusHeld : Phase → Bool
  | .sDSel => true
  | .sDRd => true
  | _ => false

/-- The phases in which a transport handle is held. -/
def Phase.handleHeld : Phase → Bool
  | .unconf => false
  | .iOpen => false
  | _ => true

/-- Which registers hold a value in which phase (10_state R46; 41_init R151, R163, R164; 42_sample R189, R190). -/
abbrev State.HoldsByPhase (s : State) : Prop :=
  s.busId.held = s.phase.configHeld ∧ s.devAddr.held = s.phase.configHeld ∧ s.sens.held = s.phase.configHeld ∧
  s.rateTmp.held = s.phase.inInit ∧ s.asa.held = s.phase.trimsHeld ∧ s.st1.held = s.phase.statusHeld ∧
  s.blk.held = false

/-- A handle is held exactly from a successful OPEN to the end of the epoch, and it is that of the registers (10_state
R47(c), 20_memory R61, R66). -/
abbrev State.HandleByPhase (s : State) : Prop :=
  s.handle = if s.phase.handleHeld then some { bus := s.busId.val, dev := s.devAddr.val } else none

/-- The delay timer holds a value exactly in a DELAY (60_exceptions R246). -/
abbrev State.TimerByPhase (s : State) : Prop := s.timer = s.phase.wait

/-- Once the mode byte is written, the last byte successfully written to `REG_CTRL` carries the `sens` the decoder uses
(10_state R38, 41_init R165(b)). -/
abbrev State.ModeMatchesSens (s : State) : Prop :=
  s.phase = .iWait4 ∨ s.phase.configured = true →
    lastCtrl s.trace = some (modeByte s.sens.val .opt8Hz) ∨ lastCtrl s.trace = some (modeByte s.sens.val .opt100Hz)

/-- Exactly one response per accepted command (10_state R43): in an idle phase as many responses as commands since
Reset, in any other one response owed; and no response is pending while a command runs. -/
abbrev State.ResponsesBalance (s : State) : Prop :=
  (s.trace.countP Event.isCmd = s.trace.countP Event.isRsp + if s.phase.isIdle then 0 else 1) ∧
  (s.phase.isIdle = false → s.rsp = none)

/-- While a command runs, what happened since its word was taken is exactly the part of its script before the phase, and
past the status read DRDY was set (41_init R152, 42_sample R182, R185). -/
abbrev State.FollowsScript (s : State) : Prop :=
  (s.phase.inInit = true → sinceCmd s.trace = (initScript s).take s.phase.position) ∧
  (s.phase.inSample = true → sinceCmd s.trace = (sampleScript s).take s.phase.position) ∧
  (s.phase.statusHeld = true → drdy s.st1.val = true)

/-- The history holds known events only (30_encoding R102, R110). -/
abbrev State.KnownEvents (s : State) : Prop := s.trace.all (Event.known s.config) = true

/-- All of the above. -/
abbrev State.Inv (s : State) : Prop :=
  s.PhaseMatchesCfg ∧ s.HoldsByPhase ∧ s.HandleByPhase ∧ s.TimerByPhase ∧ s.ModeMatchesSens ∧ s.ResponsesBalance ∧
  s.FollowsScript ∧ s.KnownEvents

/-- The end of a run of the host's commands (70_reset_and_hazards R275): all are accepted and answered and the phase is
idle. It says nothing about the chip. R275 speaks of a list of commands only; with Reset and pause moves it is the model's
choice (log 19): no move is left, so a trailing Reset or pause keeps a run not over, and a command that a Reset abandoned
without a response needs none. -/
def State.finished (s : State) : Bool := s.host.isEmpty && s.phase.isIdle

/-- The host's next move does not disturb the sequencer at this step: it has none, or it offers a word, which waits. -/
def quiet : List HostMove → Bool
  | [] => true
  | .cmd _ :: _ => true
  | .reset :: _ => false
  | .pause :: _ => false

/-- The constraint a claim may assume of the parameters: the four codes are pairwise distinct in bits [3:0]
(92_eei_decisions D7). -/
def codesDistinct (c : Config) : Bool :=
  (c.codePd.extractLsb' 0 4 != c.codeFuse.extractLsb' 0 4) && (c.codePd.extractLsb' 0 4 != 0x2) &&
  (c.codePd.extractLsb' 0 4 != 0x6) && (c.codeFuse.extractLsb' 0 4 != 0x2) && (c.codeFuse.extractLsb' 0 4 != 0x6)

-- The calibrated value as the source writes it, over the rationals.

/-- `scalar(sens)` (43_decode R204). -/
def scalarQ : Sens → ℚ
  | .opt14bit => 4912 / 8192
  | .opt16bit => 4912 / 32768

/-- `adj(c) = (c - 128)/256 + 1.0` (43_decode R203). -/
def adjQ (c : Byte) : ℚ := ((c.toNat : ℚ) - 128) / 256 + 1

/-- The value in microtesla that a calibrated output stands for: `N / 2^19` (30_encoding R108). -/
def fieldQ (n : BitVec 35) : ℚ := (n.toInt : ℚ) / 2 ^ 19

/-- An axis reading as the integer of 30_encoding R106, from the two bytes. -/
def readingZ (lo hi : Byte) : Int :=
  let u : Int := 256 * hi.toNat + lo.toNat
  if u < 32768 then u else u - 65536

end Sys2Proof.Machine
end

