-- ==== Sys2Proof/Certificates/Slice0/Obligations.lean ====
section
/-! DEFINITION. The statements for the provers, from the numbered rules of spec/ and over every state that meets their
premises. "Contents" of registers that hold no value, the counter of free values and (where no rule speaks of it) the
response channel are bound by "there is", so that nothing is claimed of them. -/

open Sys2Proof Sys2Proof.Machine

-- Encodings.

/-- 30_encoding R97, and the field values of R92, R93, R96, each read off the word's bits as a number. -/
def Obligations.CommandWordsClassified : Prop :=
  ∀ w : Word,
    let n := w.toNat
    let isInit := n / 2 ^ 60 = 1 ∧ n / 2 ^ 18 % 2 ^ 42 = 0 ∧ (n / 2 ^ 15 % 2 = 1 ∨ n / 2 ^ 8 % 2 ^ 7 = 0)
    (isInit → ∃ rate sens addrValid addr bus, decodeCommand w = .ok (.init rate sens addrValid addr bus) ∧
      (rate = .opt100Hz ↔ n / 2 ^ 17 % 2 = 1) ∧ (sens = .opt16bit ↔ n / 2 ^ 16 % 2 = 1) ∧
      (addrValid = true ↔ n / 2 ^ 15 % 2 = 1) ∧ addr.toNat = n / 2 ^ 8 % 2 ^ 7 ∧ bus.toNat = n % 2 ^ 8) ∧
    (n = 0x2000000000000000 → decodeCommand w = .ok .sample) ∧
    (n / 2 ^ 56 = 0x30 → ∃ b : Block, decodeCommand w = .ok (.decode b) ∧
      b.b0.toNat = n % 2 ^ 8 ∧ b.b1.toNat = n / 2 ^ 8 % 2 ^ 8 ∧ b.b2.toNat = n / 2 ^ 16 % 2 ^ 8 ∧
      b.b3.toNat = n / 2 ^ 24 % 2 ^ 8 ∧ b.b4.toNat = n / 2 ^ 32 % 2 ^ 8 ∧ b.b5.toNat = n / 2 ^ 40 % 2 ^ 8 ∧
      b.b6.toNat = n / 2 ^ 48 % 2 ^ 8) ∧
    (¬ isInit → n ≠ 0x2000000000000000 → n / 2 ^ 56 ≠ 0x30 →
      (∃ why, decodeCommand w = .error why) ∧
      ∀ (s : State) (rest : List HostMove), s.phase.isIdle = true → s.host = .cmd w :: rest →
        ∃ t, step s = .next t ∧ t.rsp = some .refusedIllegal)

/-- Decode of encode, for every instruction that has an encoding and every value of its fields. -/
def Obligations.EncodeThenDecode : Prop :=
  ∀ (c : Config) (i : Instr) (wire : Wire), codesDistinct c = true → i.wellFormed = true → encode c i = some wire →
    decodeWire c wire = .ok i

/-- Encode of decode: an accepted word or frame is the only one of its instruction, and that is well formed. -/
def Obligations.DecodeThenEncode : Prop :=
  ∀ (c : Config) (wire : Wire) (i : Instr), decodeWire c wire = .ok i →
    i.wellFormed = true ∧ encode c i = some wire

/-- Words and frames written out in the spec decode to what it says (95_test_vectors 2.1; 30_encoding R102, R103). -/
def Obligations.WrittenOutWordsDecode : Prop :=
  decodeCommand 0x1000000000038E03 = .ok (.init .opt100Hz .opt16bit true 0x0E 3) ∧
  decodeCommand 0x1000000000010002 = .ok (.init .opt8Hz .opt16bit false 0 2) ∧
  decodeCommand 0x2000000000000000 = .ok .sample ∧
  decodeCommand 0x3000012C00C80064 = .ok (.decode ⟨0x64, 0x00, 0xC8, 0x00, 0x2C, 0x01, 0x00⟩) ∧
  decodeCommand 0x1000000000000D00 = .error .initAddrWithoutValid ∧
  decodeCommand 0x1800000000000000 = .error .initReservedBits ∧
  decodeCommand 0x2000000000000001 = .error .sampleReservedBits ∧
  decodeCommand 0x3100000000000000 = .error .decodeReservedBits ∧
  decodeCommand 0xF000000000000000 = .error .reservedOpcode ∧
  decodeWire Config.default (.busWrite [0x0A, 0x00]) = .ok .wrCtrlPd ∧
  decodeWire Config.default (.busWrite [0x0A, 0x0F]) = .ok .wrCtrlFuse ∧
  decodeWire Config.default (.busWrite [0x0A, 0x16]) = .ok (.wrCtrlMode .opt16bit .opt100Hz) ∧
  decodeWire Config.default (.busWrite [0x10]) = .ok .selCal ∧
  decodeWire Config.default (.busWrite [0x02]) = .ok .selStatus ∧
  decodeWire Config.default (.busWrite [0x03]) = .ok .selData ∧
  decodeWire Config.default (.busRead 7) = .ok .rdData

/-- 41_init R160, 30_encoding R103: the four mode bytes. -/
def Obligations.ModeByteValues : Prop :=
  modeByte .opt14bit .opt8Hz = 0x02 ∧ modeByte .opt14bit .opt100Hz = 0x06 ∧
  modeByte .opt16bit .opt8Hz = 0x12 ∧ modeByte .opt16bit .opt100Hz = 0x16

/-- 30_encoding R112: what the spelled commands' words decode to; an absent address is not a present 0x0C. -/
def Obligations.SpelledCommandsDecode : Prop :=
  ∀ (bus : Byte) (a : DevAddr) (sens : Sens) (rate : Rate) (b : Block),
    decodeCommand (Spelled.init bus none sens rate).word = .ok (.init rate sens false 0 bus) ∧
    decodeCommand (Spelled.init bus (some a) sens rate).word = .ok (.init rate sens true a bus) ∧
    decodeCommand Spelled.sample.word = .ok .sample ∧
    decodeCommand (Spelled.decode b).word = .ok (.decode b)

-- The step.

/-- What step adds around exec: it takes the offered word or the passed step off the host's moves, and nothing else. -/
def Obligations.StepRunsDecodedInstruction : Prop :=
  (∀ (s : State) (w : Word) (rest : List HostMove) (i : Instr), s.phase.isIdle = true → s.host = .cmd w :: rest →
    decodeCommand w = .ok i → step s = exec i { s with host := rest }) ∧
  (∀ (s : State) (i : Instr), s.microOp = some i → quiet s.host = true → step s = exec i s) ∧
  (∀ (s : State) (rest : List HostMove) (i : Instr), s.microOp = some i → s.host = .pause :: rest →
    step s = exec i { s with host := rest })

/-- 41_init R152 and 42_sample R182: the micro-operation each phase issues; an idle phase issues none. -/
def Obligations.MicroOpOfEachPhase : Prop :=
  ∀ s : State,
    s.microOp = match s.phase with
      | .unconf => none
      | .ready => none
      | .iOpen => some .busOpen
      | .iPd1 => some .wrCtrlPd
      | .iWait1 => some (.delay .tPd1)
      | .iFuse => some .wrCtrlFuse
      | .iWait2 => some (.delay .tFuse)
      | .iCalSel => some .selCal
      | .iCalRd => some .rdCal
      | .iPd2 => some .wrCtrlPd
      | .iWait3 => some (.delay .tPd2)
      | .iMode => some (.wrCtrlMode s.sens.val s.rateTmp.val)
      | .iWait4 => some (.delay .tMode)
      | .sStSel => some .selStatus
      | .sStRd => some .rdStatus
      | .sDSel => some .selData
      | .sDRd => some .rdData

/-- 60_exceptions R243, which speaks of reachable states with an answer or an offered word: no state, host move or
answer makes a step fault or be refused. That a state without an answer or a word answers next too is the model's choice
(log 6), and so is that reading a register which holds no value goes on in states that no run reaches (log 14). -/
def Obligations.StepNeverStops : Prop :=
  ∀ s : State, ∃ t, step s = .next t

/-- 70_reset_and_hazards R260: the Reset event in any phase. That the history is cut and the moves and answers to come
stay is the model's choice (log 13). -/
def Obligations.ResetFromAnyPhase : Prop :=
  ∀ (s : State) (rest : List HostMove), s.host = .reset :: rest →
    ∃ t, step s = .next t ∧ t.phase = .unconf ∧ t.cfgValid = false ∧
      t.busId.held = false ∧ t.devAddr.held = false ∧ t.sens.held = false ∧ t.rateTmp.held = false ∧
      t.asa.held = false ∧ t.st1.held = false ∧ t.blk.held = false ∧ t.timer = none ∧ t.handle = none ∧
      t.rsp = none ∧ t.trace = [.reset] ∧ t.config = s.config ∧ t.host = rest ∧ t.answers = s.answers

/-- 10_state R45: the state after Reset, and that the block then waits for a command (as a step that changes nothing:
log 6). -/
def Obligations.StateAfterReset : Prop :=
  State.reset.phase = .unconf ∧ State.reset.cfgValid = false ∧ State.reset.busId.held = false ∧
  State.reset.devAddr.held = false ∧ State.reset.sens.held = false ∧ State.reset.rateTmp.held = false ∧
  State.reset.asa.held = false ∧ State.reset.st1.held = false ∧ State.reset.blk.held = false ∧
  State.reset.rsp = none ∧ State.reset.handle = none ∧ State.reset.trace = [.reset] ∧
  step State.reset = .next State.reset

/-- 40_bus_microops R137: in an idle phase only the host's command step is enabled. That the block's waiting is a step
that changes nothing is the model's choice (log 6). -/
def Obligations.IdleBlockWaits : Prop :=
  ∀ s : State, s.phase.isIdle = true →
    (s.host = [] → step s = .next s) ∧
    (∀ rest, s.host = .pause :: rest → step s = .next { s with host := rest })

-- The host commands.

/-- 41_init R151: acceptance of INIT, in either idle phase, for every form. -/
def Obligations.InitAccepted : Prop :=
  ∀ (s : State) (rate : Rate) (sens : Sens) (addrValid : Bool) (addr : DevAddr) (bus : Byte),
    s.phase = .unconf ∨ s.phase = .ready → addrValid = true ∨ addr = 0 →
    ∃ v n r, exec (.init rate sens addrValid addr bus) s = .next { s with
      phase := .iOpen, timer := none, cfgValid := false
      busId := ⟨bus, true⟩, devAddr := ⟨if addrValid = true then addr else 0x0C, true⟩
      sens := ⟨sens, true⟩, rateTmp := ⟨rate, true⟩, asa := ⟨v, false⟩, handle := none, rsp := r
      trace := s.trace ++ [.cmd (encodeInit rate sens addrValid addr bus)], freeCount := n }

/-- The form of INIT whose word 30_encoding R109 makes illegal. No word decodes to this instruction; that `exec` of it
refuses its word as 60_exceptions R235 refuses an illegal word, and changes nothing else, is the model's (log 18). -/
def Obligations.IllFormedInitRefused : Prop :=
  ∀ (s : State) (rate : Rate) (sens : Sens) (addr : DevAddr) (bus : Byte), s.phase.isIdle = true → addr ≠ 0 →
    exec (.init rate sens false addr bus) s = .next { s with
      rsp := some .refusedIllegal
      trace := s.trace ++ [.cmd (encodeInit rate sens false addr bus), .rsp .refusedIllegal] }

/-- 60_exceptions R235: an illegal word in either idle phase. -/
def Obligations.IllegalWordRefused : Prop :=
  ∀ (s : State) (w : Word) (rest : List HostMove) (why : Reject), s.phase = .unconf ∨ s.phase = .ready →
    s.host = .cmd w :: rest → decodeCommand w = .error why →
    step s = .next { s with
      host := rest, rsp := some .refusedIllegal, trace := s.trace ++ [.cmd w, .rsp .refusedIllegal] }

/-- 42_sample R181: acceptance of SAMPLE. -/
def Obligations.SampleAccepted : Prop :=
  ∀ s : State, s.phase.isIdle = true → s.cfgValid = true →
    ∃ r, exec .sample s = .next { s with
      phase := .sStSel, timer := none, rsp := r, trace := s.trace ++ [.cmd 0x2000000000000000] }

/-- 43_decode R212: DECODE in READY, answered in the accepting step from the current `sens` and `asa[]`. -/
def Obligations.DecodeCompletes : Prop :=
  ∀ (s : State) (b : Block), s.phase.isIdle = true → s.cfgValid = true →
    ∃ r, exec (.decode b) s = .next { s with
        rsp := some r, trace := s.trace ++ [.cmd (encodeDecode b), .rsp r] } ∧
      (sampleDecode b s.sens.val s.asa.val = none → r = .saturated) ∧
      (∀ d, sampleDecode b s.sens.val s.asa.val = some d → r = .sample ⟨d.raw, d.calq, false⟩)

/-- 43_decode R213 and the same for SAMPLE (60_exceptions R236 (3)): refused without a configuration. -/
def Obligations.RefusedWithoutConfiguration : Prop :=
  ∀ (s : State) (b : Block), s.phase.isIdle = true → s.cfgValid = false →
    exec (.decode b) s = .next { s with
      rsp := some .refusedNotConfigured
      trace := s.trace ++ [.cmd (encodeDecode b), .rsp .refusedNotConfigured] } ∧
    exec .sample s = .next { s with
      rsp := some .refusedNotConfigured
      trace := s.trace ++ [.cmd 0x2000000000000000, .rsp .refusedNotConfigured] }

/-- 60_exceptions R236: while a command runs, a host's word is not accepted but waits. That `exec` of a command there
changes nothing is the model's choice (log 11). -/
def Obligations.CommandsWaitWhileBusy : Prop :=
  ∀ s : State, s.phase.isIdle = false →
    (∀ rate sens addrValid addr bus, exec (.init rate sens addrValid addr bus) s = .next s) ∧
    exec .sample s = .next s ∧ (∀ b, exec (.decode b) s = .next s) ∧
    (∀ w rest t, s.host = .cmd w :: rest → step s = .next t → t.host = s.host)

-- The micro-operations: completion on ok.

/-- 41_init R153: OPEN on ok. -/
def Obligations.OpenCompletes : Prop :=
  ∀ (s : State) (d : Block) (rest : List Answer), s.phase = .iOpen → s.answers = .ok d :: rest →
    exec .busOpen s = .next { s with
      phase := .iPd1, timer := none, handle := some ⟨s.busId.val, s.devAddr.val⟩, answers := rest
      trace := s.trace ++ [.busOpen s.busId.val s.devAddr.val .ok] }

/-- 41_init R154, R155, R158, R161 with R160: the four control-register writes on ok, one write of two bytes each and
then the wait of its delay. That the timer then holds the name of the duration is the model's choice (log 17). -/
def Obligations.ControlWritesComplete : Prop :=
  ∀ (s : State) (d : Block) (rest : List Answer), s.answers = .ok d :: rest →
    (s.phase = .iPd1 → exec .wrCtrlPd s = .next { s with
      phase := .iWait1, timer := some .tPd1, answers := rest
      trace := s.trace ++ [.busWrite [0x0A, s.config.codePd] .ok] }) ∧
    (s.phase = .iFuse → exec .wrCtrlFuse s = .next { s with
      phase := .iWait2, timer := some .tFuse, answers := rest
      trace := s.trace ++ [.busWrite [0x0A, s.config.codeFuse] .ok] }) ∧
    (s.phase = .iPd2 → exec .wrCtrlPd s = .next { s with
      phase := .iWait3, timer := some .tPd2, answers := rest
      trace := s.trace ++ [.busWrite [0x0A, s.config.codePd] .ok] }) ∧
    (s.phase = .iMode → exec (.wrCtrlMode s.sens.val s.rateTmp.val) s = .next { s with
      phase := .iWait4, timer := some .tMode, answers := rest
      trace := s.trace ++ [.busWrite [0x0A,
        (if s.sens.val = .opt16bit then 0x10 else 0x00) ||| (if s.rateTmp.val = .opt100Hz then 0x06 else 0x02)] .ok] })

/-- 40_bus_microops R133: the three register selects on ok. -/
def Obligations.RegisterSelectsComplete : Prop :=
  ∀ (s : State) (d : Block) (rest : List Answer), s.answers = .ok d :: rest →
    (s.phase = .iCalSel → exec .selCal s = .next { s with
      phase := .iCalRd, timer := none, answers := rest, trace := s.trace ++ [.busWrite [0x10] .ok] }) ∧
    (s.phase = .sStSel → exec .selStatus s = .next { s with
      phase := .sStRd, timer := none, answers := rest, trace := s.trace ++ [.busWrite [0x02] .ok] }) ∧
    (s.phase = .sDSel → exec .selData s = .next { s with
      phase := .sDRd, timer := none, answers := rest, trace := s.trace ++ [.busWrite [0x03] .ok] })

/-- 41_init R156: the calibration read on ok, any three bytes. -/
def Obligations.CalibrationReadCompletes : Prop :=
  ∀ (s : State) (d : Block) (rest : List Answer), s.phase = .iCalRd → s.answers = .ok d :: rest →
    exec .rdCal s = .next { s with
      phase := .iPd2, timer := none, asa := ⟨⟨d.b0, d.b1, d.b2⟩, true⟩, answers := rest
      trace := s.trace ++ [.busRead 3 (.ok [d.b0, d.b1, d.b2])] }

/-- 42_sample R184 and the ready side of R185: the status read with bit 0 set. -/
def Obligations.StatusReadReady : Prop :=
  ∀ (s : State) (d : Block) (rest : List Answer), s.phase = .sStRd → s.answers = .ok d :: rest →
    d.b0.toNat % 2 = 1 →
    exec .rdStatus s = .next { s with
      phase := .sDSel, timer := none, st1 := ⟨d.b0, true⟩, answers := rest
      trace := s.trace ++ [.busRead 1 (.ok [d.b0])] }

/-- 42_sample R185: the status read with bit 0 clear, whatever the other bits. -/
def Obligations.StatusReadNotReady : Prop :=
  ∀ (s : State) (d : Block) (rest : List Answer), s.phase = .sStRd → s.answers = .ok d :: rest →
    d.b0.toNat % 2 = 0 →
    ∃ v b n, exec .rdStatus s = .next { s with
      phase := .ready, timer := none, st1 := ⟨v, false⟩, blk := ⟨b, false⟩, rsp := some .notReady, answers := rest
      trace := s.trace ++ [.busRead 1 (.ok [d.b0]), .rsp .notReady], freeCount := n }

/-- 42_sample R187, R188, R189: the data read, its decoding with the current configuration, and the overrun flag of the
status byte read before. -/
def Obligations.DataReadCompletes : Prop :=
  ∀ (s : State) (b : Block) (rest : List Answer), s.phase = .sDRd → s.answers = .ok b :: rest →
    ∃ r v c n, exec .rdData s = .next { s with
        phase := .ready, timer := none, st1 := ⟨v, false⟩, blk := ⟨c, false⟩, rsp := some r, answers := rest
        trace := s.trace ++ [.busRead 7 (.ok [b.b0, b.b1, b.b2, b.b3, b.b4, b.b5, b.b6]), .rsp r], freeCount := n } ∧
      (sampleDecode b s.sens.val s.asa.val = none → r = .saturated) ∧
      (∀ d, sampleDecode b s.sens.val s.asa.val = some d →
        r = .sample ⟨d.raw, d.calq, decide (s.st1.val.toNat / 2 % 2 = 1)⟩)

/-- 40_bus_microops R136 and the table of 70_reset_and_hazards R262: the first three delays. -/
def Obligations.DelaysComplete : Prop :=
  ∀ s : State,
    (s.phase = .iWait1 → exec (.delay .tPd1) s = .next { s with
      phase := .iFuse, timer := none, trace := s.trace ++ [.delay 1000] }) ∧
    (s.phase = .iWait2 → exec (.delay .tFuse) s = .next { s with
      phase := .iCalSel, timer := none, trace := s.trace ++ [.delay 1000] }) ∧
    (s.phase = .iWait3 → exec (.delay .tPd2) s = .next { s with
      phase := .iMode, timer := none, trace := s.trace ++ [.delay 100] })

/-- 41_init R163: the last delay ends INIT. -/
def Obligations.LastDelayCompletesInit : Prop :=
  ∀ s : State, s.phase = .iWait4 →
    ∃ v n, exec (.delay .tMode) s = .next { s with
      phase := .ready, timer := none, cfgValid := true, rateTmp := ⟨v, false⟩, rsp := some .ok
      trace := s.trace ++ [.delay 100, .rsp .ok], freeCount := n }

-- The micro-operations: the bus error, blocking, and where they are not issued.

/-- 41_init R164: the abort of INIT by any of its seven transport operations. -/
def Obligations.BusErrorAbortsInit : Prop :=
  ∀ (s : State) (i : Instr) (e : BusErr) (rest : List Answer) (ev : Event), s.phase.inInit = true →
    s.microOp = some i → failedEvent i e s = some ev → s.answers = .err e :: rest →
    ∃ bus dev sens rate asa n, exec i s = .next { s with
      phase := .unconf, timer := none, cfgValid := false
      busId := ⟨bus, false⟩, devAddr := ⟨dev, false⟩, sens := ⟨sens, false⟩, rateTmp := ⟨rate, false⟩
      asa := ⟨asa, false⟩, handle := none, rsp := some (.busError e), answers := rest
      trace := s.trace ++ [ev, .rsp (.busError e)], freeCount := n }

/-- 42_sample R190: the abort of SAMPLE by any of its four transport operations. -/
def Obligations.BusErrorEndsSample : Prop :=
  ∀ (s : State) (i : Instr) (e : BusErr) (rest : List Answer) (ev : Event), s.phase.inSample = true →
    s.microOp = some i → failedEvent i e s = some ev → s.answers = .err e :: rest →
    ∃ v b n, exec i s = .next { s with
      phase := .ready, timer := none, st1 := ⟨v, false⟩, blk := ⟨b, false⟩, rsp := some (.busError e), answers := rest
      trace := s.trace ++ [ev, .rsp (.busError e)], freeCount := n }

/-- 20_memory R64, 60_exceptions R232: the cause is forwarded and decides nothing: two runs that differ in the cause
differ in the event and the response that carry it, and in nothing else. -/
def Obligations.ErrorCauseIsOpaque : Prop :=
  ∀ (s : State) (i : Instr) (e f : BusErr) (rest : List Answer) (ev fv : Event),
    s.microOp = some i → failedEvent i e s = some ev → failedEvent i f s = some fv →
    ∃ t : State, exec i { s with answers := .err e :: rest } =
          .next { t with rsp := some (.busError e), trace := s.trace ++ [ev, .rsp (.busError e)] } ∧
      exec i { s with answers := .err f :: rest } =
          .next { t with rsp := some (.busError f), trace := s.trace ++ [fv, .rsp (.busError f)] }

/-- 20_memory R65: a transport operation blocks the sequencer until its answer arrives. That blocking is a step that
changes nothing is the model's choice (log 6). -/
def Obligations.OperationsBlockWithoutAnswer : Prop :=
  ∀ (s : State) (i : Instr) (e : BusErr) (ev : Event), s.microOp = some i → failedEvent i e s = some ev →
    s.answers = [] → exec i s = .next s

/-- A micro-operation is executed only where its phase issues it (40_bus_microops R130); elsewhere the model faults
(its choice, log 8). -/
def Obligations.MicroOpsOnlyWhereIssued : Prop :=
  ∀ (s : State) (i : Instr),
    (∀ rate sens addrValid addr bus, i ≠ .init rate sens addrValid addr bus) → i ≠ .sample → (∀ b, i ≠ .decode b) →
    (s.microOp = some i → ∃ t, exec i s = .next t) ∧ (s.microOp ≠ some i → exec i s = .fault .notIssued)

-- The Sample Decoder.

/-- 43_decode R201: absence exactly when bit 3 of byte 6 is set, whatever the rest. -/
def Obligations.SaturationIsAbsence : Prop :=
  ∀ (b : Block) (sens : Sens) (asa : Axes Byte),
    (b.b6 &&& 0x08 ≠ 0 → sampleDecode b sens asa = none) ∧
    (b.b6 &&& 0x08 = 0 → ∃ d, sampleDecode b sens asa = some d)

/-- 43_decode R214 (b), with R202, R205, R207: raw readings, and calibrated values as exact rationals. -/
def Obligations.DecodeMatchesRationalFormula : Prop :=
  ∀ (b : Block) (sens : Sens) (asa : Axes Byte) (d : Sample), sampleDecode b sens asa = some d →
    d.raw.x.toInt = readingZ b.b0 b.b1 ∧ d.raw.y.toInt = readingZ b.b2 b.b3 ∧ d.raw.z.toInt = readingZ b.b4 b.b5 ∧
    (∀ a : Axis, fieldQ (d.calq.get a) = scalarQ sens * adjQ (asa.get a) * ((d.raw.get a).toInt : ℚ)) ∧
    d.overrun = false

/-- 43_decode R208 (e): the extremes, which are attained. -/
def Obligations.CalibratedRange : Prop :=
  (∀ (c : Byte) (r : BitVec 16), -15411576832 ≤ (calq .opt14bit c r).toInt ∧ (calq .opt14bit c r).toInt ≤ 15411106508) ∧
  (∀ (c : Byte) (r : BitVec 16), -3852894208 ≤ (calq .opt16bit c r).toInt ∧ (calq .opt16bit c r).toInt ≤ 3852776627) ∧
  (calq .opt14bit 255 0x8000).toInt = -15411576832 ∧ (calq .opt14bit 255 0x7FFF).toInt = 15411106508 ∧
  (calq .opt16bit 255 0x8000).toInt = -3852894208 ∧ (calq .opt16bit 255 0x7FFF).toInt = 3852776627

/-- 43_decode R214 (d), (e), (f) and R208 (d): laws of the calibrated value. -/
def Obligations.CalibrationLaws : Prop :=
  ∀ (c : Byte) (r : BitVec 16),
    (calq .opt14bit c r).toInt = 4 * (calq .opt16bit c r).toInt ∧
    (∀ q : BitVec 16, q.toInt = -r.toInt → ∀ sens, (calq sens c q).toInt = -(calq sens c r).toInt) ∧
    (∀ sens, ((calq sens c r).toInt < 0 ↔ r.toInt < 0) ∧ ((calq sens c r).toInt = 0 ↔ r.toInt = 0)) ∧
    (∀ sens, fieldQ (calq sens 128 r) = scalarQ sens * (r.toInt : ℚ))

/-- 43_decode R214 (c): byte 6 matters through bit 3 alone. -/
def Obligations.DecodeIgnoresUnnamedBits : Prop :=
  ∀ (b : Block) (v : Byte) (sens : Sens) (asa : Axes Byte), (b.b6 &&& 0x08 = v &&& 0x08) →
    sampleDecode { b with b6 := v } sens asa = sampleDecode b sens asa

/-- 95_test_vectors 2.5, rows 1, 4 and 5: decoded blocks. -/
def Obligations.WorkedExamplesDecode : Prop :=
  sampleDecode ⟨0x64, 0x00, 0xC8, 0x00, 0x2C, 0x01, 0x00⟩ .opt16bit ⟨128, 128, 128⟩ =
    some ⟨⟨100, 200, 300⟩, ⟨7859200, 15718400, 23577600⟩, false⟩ ∧
  sampleDecode ⟨0xFF, 0xFF, 0x00, 0x80, 0xFF, 0x7F, 0x00⟩ .opt14bit ⟨0, 255, 176⟩ =
    some ⟨⟨0xFFFF, 0x8000, 0x7FFF⟩, ⟨0x7FFFD9A00, 0x469660000, 0x2D91A4DC0⟩, false⟩ ∧
  sampleDecode ⟨0x00, 0x80, 0xFF, 0x7F, 0x00, 0x00, 0xF7⟩ .opt14bit ⟨255, 255, 255⟩ =
    some ⟨⟨0x8000, 0x7FFF, 0⟩, ⟨0x469660000, 0x39692D2CC, 0⟩, false⟩

/-- 30_encoding R98, R99: the seven kind codes, 7 never produced, and the payload signals that each kind carries. -/
def Obligations.ResponseKindsAndPayloads : Prop :=
  Response.ok.kind = 0 ∧ (∀ d, (Response.sample d).kind = 1) ∧ Response.saturated.kind = 2 ∧
  Response.notReady.kind = 3 ∧ (∀ e, (Response.busError e).kind = 4) ∧ Response.refusedNotConfigured.kind = 5 ∧
  Response.refusedIllegal.kind = 6 ∧
  (∀ d, (Response.sample d).raw = some d.raw ∧ (Response.sample d).calq = some d.calq ∧
    (Response.sample d).overrun = some d.overrun) ∧
  (∀ e, (Response.busError e).err = some e) ∧
  ∀ r : Response, r.kind ≠ 7 ∧
    (r.kind = 1 ↔ r.raw.isSome = true) ∧ (r.kind = 1 ↔ r.calq.isSome = true) ∧
    (r.kind = 1 ↔ r.overrun.isSome = true) ∧ (r.kind = 4 ↔ r.err.isSome = true)

-- Invariants that every step keeps, and that hold after Reset.

/-- 10_state R23. -/
def Obligations.PhaseMatchesCfgKept : Prop :=
  ∀ s t : State, s.PhaseMatchesCfg → step s = .next t → t.PhaseMatchesCfg

/-- 10_state R46 with R163, R164, R189 and R190: which registers hold a value in which phase. -/
def Obligations.HeldRegistersKept : Prop :=
  ∀ s t : State, s.PhaseMatchesCfg → s.HoldsByPhase → step s = .next t → t.HoldsByPhase

/-- 10_state R47 (c), 20_memory R61: the handle is that of the epoch's registers. -/
def Obligations.HandleKept : Prop :=
  ∀ s t : State, s.PhaseMatchesCfg → s.HandleByPhase → step s = .next t → t.HandleByPhase

/-- 60_exceptions R246: the timer holds no value outside a DELAY. That it holds the name of the duration throughout each
wait phase is the model's choice (log 17). -/
def Obligations.TimerKept : Prop :=
  ∀ s t : State, s.TimerByPhase → step s = .next t → t.TimerByPhase

/-- 10_state R38, 41_init R165 (b), 70_reset_and_hazards R265: the sensitivity mode the decoder uses is the one last
written to the control register. -/
def Obligations.ModeMatchesSensKept : Prop :=
  ∀ s t : State, s.PhaseMatchesCfg → s.ModeMatchesSens → step s = .next t → t.ModeMatchesSens

/-- 10_state R43, 70_reset_and_hazards R277: exactly one response per accepted command. That no response is pending
while a command runs is the model's choice (log 7). -/
def Obligations.OneResponsePerCommandKept : Prop :=
  ∀ s t : State, s.ResponsesBalance → step s = .next t → t.ResponsesBalance

/-- 41_init R152, R165 (c), 42_sample R182, 70_reset_and_hazards R264, R267: the protocol order on the bus. -/
def Obligations.ProtocolOrderKept : Prop :=
  ∀ s t : State, s.FollowsScript → step s = .next t → t.FollowsScript

/-- 30_encoding R102, R110: nothing else ever goes out on the bus. -/
def Obligations.OnlyKnownFramesKept : Prop :=
  ∀ s t : State, s.KnownEvents → step s = .next t → t.KnownEvents

/-- All invariants hold right after Reset. -/
def Obligations.InvariantsAfterReset : Prop := State.reset.Inv

-- Whole-machine rules.

/-- 20_memory R66: where transport operations are issued, by the events a step adds. -/
def Obligations.TransportOnlyWithHandle : Prop :=
  ∀ (s t : State) (ev : Event), s.HandleByPhase → step s = .next t → ev ∈ t.trace.drop s.trace.length →
    ev.isTransport = true →
    s.phase.isIdle = false ∧ s.phase.wait = none ∧
    ((∀ bus dev a, ev ≠ .busOpen bus dev a) →
      s.handle ≠ none ∧ ((s.phase.inInit = true ∧ s.phase ≠ .iOpen) ∨ s.phase.inSample = true))

/-- 41_init R163 (last sentence), 10_state R27, R29: within an epoch the configuration does not change. A step from a
configured phase keeps it, or takes the word of an INIT in READY, or is a Reset. -/
def Obligations.ConfigurationImmutableInEpoch : Prop :=
  ∀ s t : State, s.phase.configured = true → step s = .next t →
    (t.phase.configured = true ∧ t.cfgValid = s.cfgValid ∧ t.busId = s.busId ∧ t.devAddr = s.devAddr ∧
      t.sens = s.sens ∧ t.asa = s.asa ∧ t.handle = s.handle) ∨
    (s.phase = .ready ∧ t.phase = .iOpen ∧ ∃ w rest rate sens addrValid addr bus, s.host = .cmd w :: rest ∧
      decodeCommand w = .ok (.init rate sens addrValid addr bus)) ∨
    (t.phase = .unconf ∧ ∃ rest, s.host = .reset :: rest)

/-- 42_sample R191 (e), 60_exceptions R250: outside INIT no step issues a write to the control register, whether it
succeeds or fails; so, but for a Reset (which cuts the history, log 13), the last byte written there stays. -/
def Obligations.OnlyInitWritesControlRegister : Prop :=
  ∀ s t : State, s.phase.inInit = false → step s = .next t →
    (∀ bytes a, .busWrite (0x0A :: bytes) a ∉ t.trace.drop s.trace.length) ∧
    ((∀ rest, s.host ≠ .reset :: rest) → lastCtrl t.trace = lastCtrl s.trace)

/-- 10_state R44: except at Reset the history only grows; and no step writes the parameters (log 4). -/
def Obligations.HistoryGrowsParametersStay : Prop :=
  ∀ s t : State, step s = .next t →
    t.config = s.config ∧ ((∀ rest, s.host ≠ .reset :: rest) → ∃ new, t.trace = s.trace ++ new)

/-- 41_init R150: the whole command. With an answer ok to each of its seven transport operations (the premise of
70_reset_and_hazards R276) INIT ends in READY after its acceptance and its eleven phases, with this history. -/
def Obligations.InitRunsToReady : Prop :=
  ∀ (s : State) (w : Word) (rate : Rate) (sens : Sens) (addrValid : Bool) (addr : DevAddr) (bus : Byte)
    (moves : List HostMove) (a b c d e f g : Block) (rest : List Answer),
    s.phase.isIdle = true → s.host = .cmd w :: moves → quiet moves = true →
    decodeCommand w = .ok (.init rate sens addrValid addr bus) →
    s.answers = .ok a :: .ok b :: .ok c :: .ok d :: .ok e :: .ok f :: .ok g :: rest →
    let dev : DevAddr := if addrValid = true then addr else 0x0C
    ∃ t, Host.Core.run Sys2Proof.core 12 s = .next t ∧ t.phase = .ready ∧ t.cfgValid = true ∧
      t.busId = ⟨bus, true⟩ ∧ t.devAddr = ⟨dev, true⟩ ∧ t.sens = ⟨sens, true⟩ ∧ t.rateTmp.held = false ∧
      t.asa = ⟨⟨e.b0, e.b1, e.b2⟩, true⟩ ∧ t.handle = some ⟨bus, dev⟩ ∧ t.rsp = some .ok ∧
      t.host = moves ∧ t.answers = rest ∧
      t.trace = s.trace ++ [.cmd w, .busOpen bus dev .ok, .busWrite [0x0A, s.config.codePd] .ok, .delay 1000,
        .busWrite [0x0A, s.config.codeFuse] .ok, .delay 1000, .busWrite [0x10] .ok,
        .busRead 3 (.ok [e.b0, e.b1, e.b2]), .busWrite [0x0A, s.config.codePd] .ok, .delay 100,
        .busWrite [0x0A, (if sens = .opt16bit then 0x10 else 0x00) ||| (if rate = .opt100Hz then 0x06 else 0x02)] .ok,
        .delay 100, .rsp .ok]

/-- 42_sample R180: the whole command when nothing fails, not ready (three steps) and ready (five steps). -/
def Obligations.SampleRunsToResponse : Prop :=
  ∀ (s : State) (moves : List HostMove) (a st c b : Block) (rest : List Answer),
    s.phase = .ready → s.cfgValid = true → s.host = .cmd 0x2000000000000000 :: moves → quiet moves = true →
    s.answers = .ok a :: .ok st :: .ok c :: .ok b :: rest →
    (st.b0.toNat % 2 = 0 → ∃ t, Host.Core.run Sys2Proof.core 3 s = .next t ∧ t.phase = .ready ∧
      t.rsp = some .notReady ∧ t.answers = .ok c :: .ok b :: rest ∧
      t.trace = s.trace ++ [.cmd 0x2000000000000000, .busWrite [0x02] .ok, .busRead 1 (.ok [st.b0]), .rsp .notReady]) ∧
    (st.b0.toNat % 2 = 1 → ∃ t r, Host.Core.run Sys2Proof.core 5 s = .next t ∧ t.phase = .ready ∧
      t.rsp = some r ∧ t.answers = rest ∧
      (sampleDecode b s.sens.val s.asa.val = none → r = .saturated) ∧
      (∀ d, sampleDecode b s.sens.val s.asa.val = some d →
        r = .sample ⟨d.raw, d.calq, decide (st.b0.toNat / 2 % 2 = 1)⟩) ∧
      t.trace = s.trace ++ [.cmd 0x2000000000000000, .busWrite [0x02] .ok, .busRead 1 (.ok [st.b0]),
        .busWrite [0x03] .ok, .busRead 7 (.ok [b.b0, b.b1, b.b2, b.b3, b.b4, b.b5, b.b6]), .rsp r])

/-- 41_init R166 (b), 30_encoding R112: `addr=0x0c` written out is another word with the same behaviour. -/
def Obligations.ExplicitDefaultAddress : Prop :=
  ∀ (s : State) (rate : Rate) (sens : Sens) (bus : Byte), s.phase.isIdle = true →
    encodeInit rate sens false 0 bus ≠ encodeInit rate sens true 0x0C bus ∧
    ∃ t : State, exec (.init rate sens false 0 bus) s =
          .next { t with trace := s.trace ++ [.cmd (encodeInit rate sens false 0 bus)] } ∧
      exec (.init rate sens true 0x0C bus) s =
          .next { t with trace := s.trace ++ [.cmd (encodeInit rate sens true 0x0C bus)] }

/-- 40_bus_microops R136: the least number of cycles of a delay is the ceiling of its minimum time by the clock. -/
def Obligations.DelayCyclesAreTheCeiling : Prop :=
  ∀ (t : Duration) (fClk : Nat),
    durationMicros t * fClk ≤ 1000000 * minCycles t fClk ∧ 1000000 * minCycles t fClk < durationMicros t * fClk + 1000000
end

