-- ==== Sys2Proof/Laws/Encode.lean ====
section
/-! SUPPORT. Command words as numbers: the weight of every field, and a field read back as quotient and remainder. -/

namespace Sys2Proof

theorem toNat_concat {m n : Nat} (x : BitVec m) (y : BitVec n) : (x ++ y).toNat = x.toNat * 2 ^ n + y.toNat := by
  rw [BitVec.toNat_append, ← Nat.shiftLeft_add_eq_or_of_lt y.isLt, Nat.shiftLeft_eq]

theorem encodeInit_toNat (rate : Rate) (sens : Sens) (addrValid : Bool) (addr : DevAddr) (bus : Byte) :
    (encodeInit rate sens addrValid addr bus).toNat = 2 ^ 60 + rate.bit.toNat * 2 ^ 17 + sens.bit.toNat * 2 ^ 16 +
      (BitVec.ofBool addrValid).toNat * 2 ^ 15 + addr.toNat * 2 ^ 8 + bus.toNat := by
  simp only [encodeInit, toNat_concat, BitVec.toNat_ofNat]
  omega

theorem encodeDecode_toNat (b : Block) :
    (encodeDecode b).toNat = 3 * 2 ^ 60 + b.b6.toNat * 2 ^ 48 + b.b5.toNat * 2 ^ 40 + b.b4.toNat * 2 ^ 32 +
      b.b3.toNat * 2 ^ 24 + b.b2.toNat * 2 ^ 16 + b.b1.toNat * 2 ^ 8 + b.b0.toNat := by
  simp only [encodeDecode, toNat_concat, BitVec.toNat_ofNat]
  omega

theorem field_toNat (w : Word) (start len : Nat) :
    (w.extractLsb' start len).toNat = w.toNat / 2 ^ start % 2 ^ len := by
  simp [BitVec.extractLsb'_toNat, Nat.shiftRight_eq_div_pow]

@[simp] theorem Rate.ofBit_bit (r : Rate) : Rate.ofBit r.bit = r := by cases r <;> rfl
@[simp] theorem Sens.ofBit_bit (s : Sens) : Sens.ofBit s.bit = s := by cases s <;> rfl

end Sys2Proof
end

