-- ==== Sys2Proof/Laws/State.lean ====
section
/-! SUPPORT. One lemma per field of State and update, all by rfl, so that no proof unfolds a record update. Of a dropped
register only `held` is told: its contents are a free value. -/

namespace Sys2Proof.Machine

@[simp] theorem State.withHost_config (s : State) (m : List HostMove) : (s.withHost m).config = s.config := rfl
@[simp] theorem State.withHost_phase (s : State) (m : List HostMove) : (s.withHost m).phase = s.phase := rfl
@[simp] theorem State.withHost_cfgValid (s : State) (m : List HostMove) : (s.withHost m).cfgValid = s.cfgValid := rfl
@[simp] theorem State.withHost_busId (s : State) (m : List HostMove) : (s.withHost m).busId = s.busId := rfl
@[simp] theorem State.withHost_devAddr (s : State) (m : List HostMove) : (s.withHost m).devAddr = s.devAddr := rfl
@[simp] theorem State.withHost_sens (s : State) (m : List HostMove) : (s.withHost m).sens = s.sens := rfl
@[simp] theorem State.withHost_rateTmp (s : State) (m : List HostMove) : (s.withHost m).rateTmp = s.rateTmp := rfl
@[simp] theorem State.withHost_asa (s : State) (m : List HostMove) : (s.withHost m).asa = s.asa := rfl
@[simp] theorem State.withHost_st1 (s : State) (m : List HostMove) : (s.withHost m).st1 = s.st1 := rfl
@[simp] theorem State.withHost_blk (s : State) (m : List HostMove) : (s.withHost m).blk = s.blk := rfl
@[simp] theorem State.withHost_handle (s : State) (m : List HostMove) : (s.withHost m).handle = s.handle := rfl
@[simp] theorem State.withHost_timer (s : State) (m : List HostMove) : (s.withHost m).timer = s.timer := rfl
@[simp] theorem State.withHost_rsp (s : State) (m : List HostMove) : (s.withHost m).rsp = s.rsp := rfl
@[simp] theorem State.withHost_trace (s : State) (m : List HostMove) : (s.withHost m).trace = s.trace := rfl
@[simp] theorem State.withHost_host (s : State) (m : List HostMove) : (s.withHost m).host = m := rfl
@[simp] theorem State.withHost_answers (s : State) (m : List HostMove) : (s.withHost m).answers = s.answers := rfl
@[simp] theorem State.withHost_freeCount (s : State) (m : List HostMove) : (s.withHost m).freeCount = s.freeCount := rfl

@[simp] theorem State.withAnswers_config (s : State) (m : List Answer) : (s.withAnswers m).config = s.config := rfl
@[simp] theorem State.withAnswers_phase (s : State) (m : List Answer) : (s.withAnswers m).phase = s.phase := rfl
@[simp] theorem State.withAnswers_cfgValid (s : State) (m : List Answer) : (s.withAnswers m).cfgValid = s.cfgValid := rfl
@[simp] theorem State.withAnswers_busId (s : State) (m : List Answer) : (s.withAnswers m).busId = s.busId := rfl
@[simp] theorem State.withAnswers_devAddr (s : State) (m : List Answer) : (s.withAnswers m).devAddr = s.devAddr := rfl
@[simp] theorem State.withAnswers_sens (s : State) (m : List Answer) : (s.withAnswers m).sens = s.sens := rfl
@[simp] theorem State.withAnswers_rateTmp (s : State) (m : List Answer) : (s.withAnswers m).rateTmp = s.rateTmp := rfl
@[simp] theorem State.withAnswers_asa (s : State) (m : List Answer) : (s.withAnswers m).asa = s.asa := rfl
@[simp] theorem State.withAnswers_st1 (s : State) (m : List Answer) : (s.withAnswers m).st1 = s.st1 := rfl
@[simp] theorem State.withAnswers_blk (s : State) (m : List Answer) : (s.withAnswers m).blk = s.blk := rfl
@[simp] theorem State.withAnswers_handle (s : State) (m : List Answer) : (s.withAnswers m).handle = s.handle := rfl
@[simp] theorem State.withAnswers_timer (s : State) (m : List Answer) : (s.withAnswers m).timer = s.timer := rfl
@[simp] theorem State.withAnswers_rsp (s : State) (m : List Answer) : (s.withAnswers m).rsp = s.rsp := rfl
@[simp] theorem State.withAnswers_trace (s : State) (m : List Answer) : (s.withAnswers m).trace = s.trace := rfl
@[simp] theorem State.withAnswers_host (s : State) (m : List Answer) : (s.withAnswers m).host = s.host := rfl
@[simp] theorem State.withAnswers_answers (s : State) (m : List Answer) : (s.withAnswers m).answers = m := rfl
@[simp] theorem State.withAnswers_freeCount (s : State) (m : List Answer) : (s.withAnswers m).freeCount = s.freeCount := rfl

@[simp] theorem State.enter_config (s : State) (p : Phase) : (s.enter p).config = s.config := rfl
@[simp] theorem State.enter_phase (s : State) (p : Phase) : (s.enter p).phase = p := rfl
@[simp] theorem State.enter_cfgValid (s : State) (p : Phase) : (s.enter p).cfgValid = s.cfgValid := rfl
@[simp] theorem State.enter_busId (s : State) (p : Phase) : (s.enter p).busId = s.busId := rfl
@[simp] theorem State.enter_devAddr (s : State) (p : Phase) : (s.enter p).devAddr = s.devAddr := rfl
@[simp] theorem State.enter_sens (s : State) (p : Phase) : (s.enter p).sens = s.sens := rfl
@[simp] theorem State.enter_rateTmp (s : State) (p : Phase) : (s.enter p).rateTmp = s.rateTmp := rfl
@[simp] theorem State.enter_asa (s : State) (p : Phase) : (s.enter p).asa = s.asa := rfl
@[simp] theorem State.enter_st1 (s : State) (p : Phase) : (s.enter p).st1 = s.st1 := rfl
@[simp] theorem State.enter_blk (s : State) (p : Phase) : (s.enter p).blk = s.blk := rfl
@[simp] theorem State.enter_handle (s : State) (p : Phase) : (s.enter p).handle = s.handle := rfl
@[simp] theorem State.enter_timer (s : State) (p : Phase) : (s.enter p).timer = p.wait := rfl
@[simp] theorem State.enter_rsp (s : State) (p : Phase) : (s.enter p).rsp = s.rsp := rfl
@[simp] theorem State.enter_trace (s : State) (p : Phase) : (s.enter p).trace = s.trace := rfl
@[simp] theorem State.enter_host (s : State) (p : Phase) : (s.enter p).host = s.host := rfl
@[simp] theorem State.enter_answers (s : State) (p : Phase) : (s.enter p).answers = s.answers := rfl
@[simp] theorem State.enter_freeCount (s : State) (p : Phase) : (s.enter p).freeCount = s.freeCount := rfl

@[simp] theorem State.record_config (s : State) (e : Event) : (s.record e).config = s.config := rfl
@[simp] theorem State.record_phase (s : State) (e : Event) : (s.record e).phase = s.phase := rfl
@[simp] theorem State.record_cfgValid (s : State) (e : Event) : (s.record e).cfgValid = s.cfgValid := rfl
@[simp] theorem State.record_busId (s : State) (e : Event) : (s.record e).busId = s.busId := rfl
@[simp] theorem State.record_devAddr (s : State) (e : Event) : (s.record e).devAddr = s.devAddr := rfl
@[simp] theorem State.record_sens (s : State) (e : Event) : (s.record e).sens = s.sens := rfl
@[simp] theorem State.record_rateTmp (s : State) (e : Event) : (s.record e).rateTmp = s.rateTmp := rfl
@[simp] theorem State.record_asa (s : State) (e : Event) : (s.record e).asa = s.asa := rfl
@[simp] theorem State.record_st1 (s : State) (e : Event) : (s.record e).st1 = s.st1 := rfl
@[simp] theorem State.record_blk (s : State) (e : Event) : (s.record e).blk = s.blk := rfl
@[simp] theorem State.record_handle (s : State) (e : Event) : (s.record e).handle = s.handle := rfl
@[simp] theorem State.record_timer (s : State) (e : Event) : (s.record e).timer = s.timer := rfl
@[simp] theorem State.record_rsp (s : State) (e : Event) : (s.record e).rsp = s.rsp := rfl
@[simp] theorem State.record_trace (s : State) (e : Event) : (s.record e).trace = s.trace ++ [e] := rfl
@[simp] theorem State.record_host (s : State) (e : Event) : (s.record e).host = s.host := rfl
@[simp] theorem State.record_answers (s : State) (e : Event) : (s.record e).answers = s.answers := rfl
@[simp] theorem State.record_freeCount (s : State) (e : Event) : (s.record e).freeCount = s.freeCount := rfl

@[simp] theorem State.respond_config (s : State) (r : Response) : (s.respond r).config = s.config := rfl
@[simp] theorem State.respond_phase (s : State) (r : Response) : (s.respond r).phase = s.phase := rfl
@[simp] theorem State.respond_cfgValid (s : State) (r : Response) : (s.respond r).cfgValid = s.cfgValid := rfl
@[simp] theorem State.respond_busId (s : State) (r : Response) : (s.respond r).busId = s.busId := rfl
@[simp] theorem State.respond_devAddr (s : State) (r : Response) : (s.respond r).devAddr = s.devAddr := rfl
@[simp] theorem State.respond_sens (s : State) (r : Response) : (s.respond r).sens = s.sens := rfl
@[simp] theorem State.respond_rateTmp (s : State) (r : Response) : (s.respond r).rateTmp = s.rateTmp := rfl
@[simp] theorem State.respond_asa (s : State) (r : Response) : (s.respond r).asa = s.asa := rfl
@[simp] theorem State.respond_st1 (s : State) (r : Response) : (s.respond r).st1 = s.st1 := rfl
@[simp] theorem State.respond_blk (s : State) (r : Response) : (s.respond r).blk = s.blk := rfl
@[simp] theorem State.respond_handle (s : State) (r : Response) : (s.respond r).handle = s.handle := rfl
@[simp] theorem State.respond_timer (s : State) (r : Response) : (s.respond r).timer = s.timer := rfl
@[simp] theorem State.respond_rsp (s : State) (r : Response) : (s.respond r).rsp = some r := rfl
@[simp] theorem State.respond_trace (s : State) (r : Response) : (s.respond r).trace = s.trace ++ [.rsp r] := rfl
@[simp] theorem State.respond_host (s : State) (r : Response) : (s.respond r).host = s.host := rfl
@[simp] theorem State.respond_answers (s : State) (r : Response) : (s.respond r).answers = s.answers := rfl
@[simp] theorem State.respond_freeCount (s : State) (r : Response) : (s.respond r).freeCount = s.freeCount := rfl

@[simp] theorem State.accept_config (s : State) (w : Word) : (s.accept w).config = s.config := rfl
@[simp] theorem State.accept_phase (s : State) (w : Word) : (s.accept w).phase = s.phase := rfl
@[simp] theorem State.accept_cfgValid (s : State) (w : Word) : (s.accept w).cfgValid = s.cfgValid := rfl
@[simp] theorem State.accept_busId (s : State) (w : Word) : (s.accept w).busId = s.busId := rfl
@[simp] theorem State.accept_devAddr (s : State) (w : Word) : (s.accept w).devAddr = s.devAddr := rfl
@[simp] theorem State.accept_sens (s : State) (w : Word) : (s.accept w).sens = s.sens := rfl
@[simp] theorem State.accept_rateTmp (s : State) (w : Word) : (s.accept w).rateTmp = s.rateTmp := rfl
@[simp] theorem State.accept_asa (s : State) (w : Word) : (s.accept w).asa = s.asa := rfl
@[simp] theorem State.accept_st1 (s : State) (w : Word) : (s.accept w).st1 = s.st1 := rfl
@[simp] theorem State.accept_blk (s : State) (w : Word) : (s.accept w).blk = s.blk := rfl
@[simp] theorem State.accept_handle (s : State) (w : Word) : (s.accept w).handle = s.handle := rfl
@[simp] theorem State.accept_timer (s : State) (w : Word) : (s.accept w).timer = s.timer := rfl
@[simp] theorem State.accept_rsp (s : State) (w : Word) : (s.accept w).rsp = none := rfl
@[simp] theorem State.accept_trace (s : State) (w : Word) : (s.accept w).trace = s.trace ++ [.cmd w] := rfl
@[simp] theorem State.accept_host (s : State) (w : Word) : (s.accept w).host = s.host := rfl
@[simp] theorem State.accept_answers (s : State) (w : Word) : (s.accept w).answers = s.answers := rfl
@[simp] theorem State.accept_freeCount (s : State) (w : Word) : (s.accept w).freeCount = s.freeCount := rfl

@[simp] theorem State.dropAsa_config (s : State) : s.dropAsa.config = s.config := rfl
@[simp] theorem State.dropAsa_phase (s : State) : s.dropAsa.phase = s.phase := rfl
@[simp] theorem State.dropAsa_cfgValid (s : State) : s.dropAsa.cfgValid = s.cfgValid := rfl
@[simp] theorem State.dropAsa_busId (s : State) : s.dropAsa.busId = s.busId := rfl
@[simp] theorem State.dropAsa_devAddr (s : State) : s.dropAsa.devAddr = s.devAddr := rfl
@[simp] theorem State.dropAsa_sens (s : State) : s.dropAsa.sens = s.sens := rfl
@[simp] theorem State.dropAsa_rateTmp (s : State) : s.dropAsa.rateTmp = s.rateTmp := rfl
@[simp] theorem State.dropAsa_asa_held (s : State) : s.dropAsa.asa.held = false := rfl
@[simp] theorem State.dropAsa_st1 (s : State) : s.dropAsa.st1 = s.st1 := rfl
@[simp] theorem State.dropAsa_blk (s : State) : s.dropAsa.blk = s.blk := rfl
@[simp] theorem State.dropAsa_handle (s : State) : s.dropAsa.handle = s.handle := rfl
@[simp] theorem State.dropAsa_timer (s : State) : s.dropAsa.timer = s.timer := rfl
@[simp] theorem State.dropAsa_rsp (s : State) : s.dropAsa.rsp = s.rsp := rfl
@[simp] theorem State.dropAsa_trace (s : State) : s.dropAsa.trace = s.trace := rfl
@[simp] theorem State.dropAsa_host (s : State) : s.dropAsa.host = s.host := rfl
@[simp] theorem State.dropAsa_answers (s : State) : s.dropAsa.answers = s.answers := rfl
@[simp] theorem State.dropAsa_freeCount (s : State) : s.dropAsa.freeCount = s.freeCount + 1 := rfl

@[simp] theorem State.dropRate_config (s : State) : s.dropRate.config = s.config := rfl
@[simp] theorem State.dropRate_phase (s : State) : s.dropRate.phase = s.phase := rfl
@[simp] theorem State.dropRate_cfgValid (s : State) : s.dropRate.cfgValid = s.cfgValid := rfl
@[simp] theorem State.dropRate_busId (s : State) : s.dropRate.busId = s.busId := rfl
@[simp] theorem State.dropRate_devAddr (s : State) : s.dropRate.devAddr = s.devAddr := rfl
@[simp] theorem State.dropRate_sens (s : State) : s.dropRate.sens = s.sens := rfl
@[simp] theorem State.dropRate_rateTmp_held (s : State) : s.dropRate.rateTmp.held = false := rfl
@[simp] theorem State.dropRate_asa (s : State) : s.dropRate.asa = s.asa := rfl
@[simp] theorem State.dropRate_st1 (s : State) : s.dropRate.st1 = s.st1 := rfl
@[simp] theorem State.dropRate_blk (s : State) : s.dropRate.blk = s.blk := rfl
@[simp] theorem State.dropRate_handle (s : State) : s.dropRate.handle = s.handle := rfl
@[simp] theorem State.dropRate_timer (s : State) : s.dropRate.timer = s.timer := rfl
@[simp] theorem State.dropRate_rsp (s : State) : s.dropRate.rsp = s.rsp := rfl
@[simp] theorem State.dropRate_trace (s : State) : s.dropRate.trace = s.trace := rfl
@[simp] theorem State.dropRate_host (s : State) : s.dropRate.host = s.host := rfl
@[simp] theorem State.dropRate_answers (s : State) : s.dropRate.answers = s.answers := rfl
@[simp] theorem State.dropRate_freeCount (s : State) : s.dropRate.freeCount = s.freeCount + 1 := rfl

@[simp] theorem State.dropConfig_config (s : State) : s.dropConfig.config = s.config := rfl
@[simp] theorem State.dropConfig_phase (s : State) : s.dropConfig.phase = s.phase := rfl
@[simp] theorem State.dropConfig_cfgValid (s : State) : s.dropConfig.cfgValid = s.cfgValid := rfl
@[simp] theorem State.dropConfig_busId_held (s : State) : s.dropConfig.busId.held = false := rfl
@[simp] theorem State.dropConfig_devAddr_held (s : State) : s.dropConfig.devAddr.held = false := rfl
@[simp] theorem State.dropConfig_sens_held (s : State) : s.dropConfig.sens.held = false := rfl
@[simp] theorem State.dropConfig_rateTmp_held (s : State) : s.dropConfig.rateTmp.held = false := rfl
@[simp] theorem State.dropConfig_asa_held (s : State) : s.dropConfig.asa.held = false := rfl
@[simp] theorem State.dropConfig_st1 (s : State) : s.dropConfig.st1 = s.st1 := rfl
@[simp] theorem State.dropConfig_blk (s : State) : s.dropConfig.blk = s.blk := rfl
@[simp] theorem State.dropConfig_handle (s : State) : s.dropConfig.handle = s.handle := rfl
@[simp] theorem State.dropConfig_timer (s : State) : s.dropConfig.timer = s.timer := rfl
@[simp] theorem State.dropConfig_rsp (s : State) : s.dropConfig.rsp = s.rsp := rfl
@[simp] theorem State.dropConfig_trace (s : State) : s.dropConfig.trace = s.trace := rfl
@[simp] theorem State.dropConfig_host (s : State) : s.dropConfig.host = s.host := rfl
@[simp] theorem State.dropConfig_answers (s : State) : s.dropConfig.answers = s.answers := rfl
@[simp] theorem State.dropConfig_freeCount (s : State) : s.dropConfig.freeCount = s.freeCount + 1 := rfl

@[simp] theorem State.dropTransients_config (s : State) : s.dropTransients.config = s.config := rfl
@[simp] theorem State.dropTransients_phase (s : State) : s.dropTransients.phase = s.phase := rfl
@[simp] theorem State.dropTransients_cfgValid (s : State) : s.dropTransients.cfgValid = s.cfgValid := rfl
@[simp] theorem State.dropTransients_busId (s : State) : s.dropTransients.busId = s.busId := rfl
@[simp] theorem State.dropTransients_devAddr (s : State) : s.dropTransients.devAddr = s.devAddr := rfl
@[simp] theorem State.dropTransients_sens (s : State) : s.dropTransients.sens = s.sens := rfl
@[simp] theorem State.dropTransients_rateTmp (s : State) : s.dropTransients.rateTmp = s.rateTmp := rfl
@[simp] theorem State.dropTransients_asa (s : State) : s.dropTransients.asa = s.asa := rfl
@[simp] theorem State.dropTransients_st1_held (s : State) : s.dropTransients.st1.held = false := rfl
@[simp] theorem State.dropTransients_blk_held (s : State) : s.dropTransients.blk.held = false := rfl
@[simp] theorem State.dropTransients_handle (s : State) : s.dropTransients.handle = s.handle := rfl
@[simp] theorem State.dropTransients_timer (s : State) : s.dropTransients.timer = s.timer := rfl
@[simp] theorem State.dropTransients_rsp (s : State) : s.dropTransients.rsp = s.rsp := rfl
@[simp] theorem State.dropTransients_trace (s : State) : s.dropTransients.trace = s.trace := rfl
@[simp] theorem State.dropTransients_host (s : State) : s.dropTransients.host = s.host := rfl
@[simp] theorem State.dropTransients_answers (s : State) : s.dropTransients.answers = s.answers := rfl
@[simp] theorem State.dropTransients_freeCount (s : State) : s.dropTransients.freeCount = s.freeCount + 1 := rfl

@[simp] theorem Reg.write_val {α : Type} (v : α) : (Reg.write v).val = v := rfl
@[simp] theorem Reg.write_held {α : Type} (v : α) : (Reg.write v).held = true := rfl
@[simp] theorem Reg.drop_held {α : Type} (v : α) : (Reg.drop v).held = false := rfl

end Sys2Proof.Machine
end

