-- ==== Sys2Proof/Laws/History.lean ====
section
/-! SUPPORT. How the readings of the history go on when an event is appended. -/

namespace Sys2Proof.Machine

@[simp] theorem lastCtrl_append (t u : List Event) : lastCtrl (t ++ u) = (lastCtrl u).or (lastCtrl t) := by
  have aux : ∀ (u : List Event) (a : Option Byte),
      u.foldl (fun last e => e.ctrlWritten.or last) a = (lastCtrl u).or a := by
    intro u
    induction u with
    | nil => intro a; rfl
    | cons e u ih =>
      intro a
      have h1 := ih (e.ctrlWritten.or a)
      have h2 := ih (e.ctrlWritten.or none)
      simp only [lastCtrl, List.foldl_cons] at *
      rw [h1, h2, Option.or_none, Option.or_assoc]
  show List.foldl _ _ _ = _
  rw [List.foldl_append]
  exact aux u _

@[simp] theorem lastCtrl_nil : lastCtrl [] = none := rfl

@[simp] theorem lastCtrl_cons (e : Event) (t : List Event) : lastCtrl (e :: t) = (lastCtrl t).or e.ctrlWritten := by
  simpa [lastCtrl] using lastCtrl_append [e] t

@[simp] theorem ctrlWritten_cmd (w : Word) : (Event.cmd w).ctrlWritten = none := rfl
@[simp] theorem ctrlWritten_rsp (r : Response) : (Event.rsp r).ctrlWritten = none := rfl
@[simp] theorem ctrlWritten_delay (m : Nat) : (Event.delay m).ctrlWritten = none := rfl
@[simp] theorem ctrlWritten_reset : Event.reset.ctrlWritten = none := rfl
@[simp] theorem ctrlWritten_busOpen (b : Byte) (d : DevAddr) (a : Ack) : (Event.busOpen b d a).ctrlWritten = none := rfl
@[simp] theorem ctrlWritten_busRead (n : Nat) (a : ReadAnswer) : (Event.busRead n a).ctrlWritten = none := rfl
@[simp] theorem ctrlWritten_select (a : Byte) (k : Ack) : (Event.busWrite [a] k).ctrlWritten = none := rfl
@[simp] theorem ctrlWritten_ctrl (v : Byte) : (Event.busWrite [10#8, v] .ok).ctrlWritten = some v := rfl

/-- A failed operation wrote nothing to the control register. -/
theorem failedEvent_ctrlWritten {i : Instr} {e : BusErr} {s : State} {ev : Event} (h : failedEvent i e s = some ev) :
    ev.ctrlWritten = none := by
  cases i <;> simp [failedEvent] at h <;> subst h <;> rfl

@[simp] theorem sinceCmd_cmd (t : List Event) (w : Word) : sinceCmd (t ++ [.cmd w]) = [] := by simp [sinceCmd, afterCmd]

@[simp] theorem sinceCmd_busOpen (t : List Event) (b : Byte) (d : DevAddr) (a : Ack) :
    sinceCmd (t ++ [.busOpen b d a]) = sinceCmd t ++ [.busOpen b d a] := by simp [sinceCmd, afterCmd]

@[simp] theorem sinceCmd_busWrite (t : List Event) (bs : List Byte) (a : Ack) :
    sinceCmd (t ++ [.busWrite bs a]) = sinceCmd t ++ [.busWrite bs a] := by simp [sinceCmd, afterCmd]

@[simp] theorem sinceCmd_busRead (t : List Event) (n : Nat) (a : ReadAnswer) :
    sinceCmd (t ++ [.busRead n a]) = sinceCmd t ++ [.busRead n a] := by simp [sinceCmd, afterCmd]

@[simp] theorem sinceCmd_delay (t : List Event) (m : Nat) :
    sinceCmd (t ++ [.delay m]) = sinceCmd t ++ [.delay m] := by simp [sinceCmd, afterCmd]

end Sys2Proof.Machine
end

