-- ==== Sys2Proof/Laws/Ops.lean ====
section
/-! SUPPORT. What each shared operation and each meaning can do, said once: if it answers next, then one of these cases
holds. Callers cite these instead of unfolding the operation. -/

namespace Sys2Proof.Machine

-- Which phase issues which micro-operation.

theorem microOp_busOpen_iff {s : State} : s.microOp = some .busOpen ↔ s.phase = .iOpen := by
  unfold State.microOp; split <;> simp_all

theorem microOp_wrCtrlPd_iff {s : State} : s.microOp = some .wrCtrlPd ↔ s.phase = .iPd1 ∨ s.phase = .iPd2 := by
  unfold State.microOp; split <;> simp_all

theorem microOp_wrCtrlFuse_iff {s : State} : s.microOp = some .wrCtrlFuse ↔ s.phase = .iFuse := by
  unfold State.microOp; split <;> simp_all

theorem microOp_wrCtrlMode_iff {s : State} {a : Sens} {r : Rate} :
    s.microOp = some (.wrCtrlMode a r) ↔ s.phase = .iMode ∧ s.sens.val = a ∧ s.rateTmp.val = r := by
  unfold State.microOp; split <;> simp_all

theorem microOp_selCal_iff {s : State} : s.microOp = some .selCal ↔ s.phase = .iCalSel := by
  unfold State.microOp; split <;> simp_all

theorem microOp_selStatus_iff {s : State} : s.microOp = some .selStatus ↔ s.phase = .sStSel := by
  unfold State.microOp; split <;> simp_all

theorem microOp_selData_iff {s : State} : s.microOp = some .selData ↔ s.phase = .sDSel := by
  unfold State.microOp; split <;> simp_all

theorem microOp_rdCal_iff {s : State} : s.microOp = some .rdCal ↔ s.phase = .iCalRd := by
  unfold State.microOp; split <;> simp_all

theorem microOp_rdStatus_iff {s : State} : s.microOp = some .rdStatus ↔ s.phase = .sStRd := by
  unfold State.microOp; split <;> simp_all

theorem microOp_rdData_iff {s : State} : s.microOp = some .rdData ↔ s.phase = .sDRd := by
  unfold State.microOp; split <;> simp_all

theorem microOp_delay_iff {s : State} {d : Duration} : s.microOp = some (.delay d) ↔ s.phase.wait = some d := by
  unfold State.microOp Phase.wait; split <;> simp_all

/-- A phase issues a micro-operation exactly when it is not idle. -/
theorem microOp_isSome_iff {s : State} : s.microOp.isSome = true ↔ s.phase.isIdle = false := by
  unfold State.microOp Phase.isIdle; split <;> simp_all

/-- A micro-operation is no host command. -/
theorem microOp_no_command {s : State} {i : Instr} (h : s.microOp = some i) :
    (∀ a b c d e, i ≠ .init a b c d e) ∧ i ≠ .sample ∧ ∀ b, i ≠ .decode b := by
  unfold State.microOp at h; split at h <;> simp_all <;> subst h <;> simp

/-- Only an issued micro-operation answers next, and then as its body does. -/
theorem issuing_next {i : Instr} {s t : State} {o : Out} :
    issuing i s o = .next t ↔ s.microOp = some i ∧ o = .next t := by
  unfold issuing; split <;> simp_all

theorem issuing_of {i : Instr} {s : State} (o : Out) (h : s.microOp = some i) : issuing i s o = o := if_pos h

theorem issuing_not {i : Instr} {s : State} (o : Out) (h : s.microOp ≠ some i) : issuing i s o = .fault .notIssued :=
  if_neg h

-- Transport operations.

/-- The environment has not answered: nothing changes. -/
def Blocked (s t : State) : Prop := s.answers = [] ∧ t = s

/-- The environment answered `err(e)`: the event `ev e` and then the bus error. -/
def Failed (ev : BusErr → Event) (s t : State) : Prop :=
  ∃ e rest, s.answers = .err e :: rest ∧ t = ((s.withAnswers rest).record (ev e)).busError e

/-- The environment answered ok: the event and then what follows. -/
def Done (ev : Block → Event) (onOk : Block → State → State) (s t : State) : Prop :=
  ∃ d rest, s.answers = .ok d :: rest ∧ t = onOk d ((s.withAnswers rest).record (ev d))

theorem transportAck_cases {ev : Ack → Event} {onOk : State → State} {s t : State}
    (h : transportAck ev onOk s = .next t) :
    Blocked s t ∨ Failed (fun e => ev (.err e)) s t ∨ Done (fun _ => ev .ok) (fun _ => onOk) s t := by
  unfold transportAck at h
  split at h <;> cases h
  · exact .inl ⟨‹_›, rfl⟩
  · exact .inr (.inr ⟨_, _, ‹_›, rfl⟩)
  · exact .inr (.inl ⟨_, _, ‹_›, rfl⟩)

theorem transportRead_cases {n : Nat} {onOk : Block → State → State} {s t : State}
    (h : transportRead n onOk s = .next t) :
    Blocked s t ∨ Failed (fun e => .busRead n (.err e)) s t ∨
      Done (fun d => .busRead n (.ok ((blockBytes d).take n))) onOk s t := by
  unfold transportRead at h
  split at h <;> cases h
  · exact .inl ⟨‹_›, rfl⟩
  · exact .inr (.inr ⟨_, _, ‹_›, rfl⟩)
  · exact .inr (.inl ⟨_, _, ‹_›, rfl⟩)

/-- A transport operation always answers next. -/
theorem transportAck_total (ev : Ack → Event) (onOk : State → State) (s : State) :
    ∃ t, transportAck ev onOk s = .next t := by
  unfold transportAck; split <;> exact ⟨_, rfl⟩

theorem transportRead_total (n : Nat) (onOk : Block → State → State) (s : State) :
    ∃ t, transportRead n onOk s = .next t := by
  unfold transportRead; split <;> exact ⟨_, rfl⟩

/-- The bus error in an INIT phase (41_init R164). -/
theorem busError_inInit {s : State} (e : BusErr) (h : s.phase.inInit = true) :
    s.busError e =
      (({ s.dropConfig with cfgValid := false, handle := none } : State).enter .unconf).respond (.busError e) := if_pos h

/-- The bus error in any other phase (42_sample R190). -/
theorem busError_notInit {s : State} (e : BusErr) (h : s.phase.inInit = false) :
    s.busError e = s.endSample (.busError e) := if_neg (by simp [h])

-- The meanings of the micro-operations.

theorem execBusOpen_cases {s t : State} (h : execBusOpen s = .next t) :
    s.phase = .iOpen ∧ (Blocked s t ∨ Failed (fun e => .busOpen s.busId.val s.devAddr.val (.err e)) s t ∨
      Done (fun _ => .busOpen s.busId.val s.devAddr.val .ok)
        (fun _ u => ({ u with handle := some { bus := u.busId.val, dev := u.devAddr.val } }).advance) s t) := by
  obtain ⟨hm, hr⟩ := issuing_next.mp h
  exact ⟨microOp_busOpen_iff.mp hm, transportAck_cases hr⟩

theorem execWrCtrlPd_cases {s t : State} (h : execWrCtrlPd s = .next t) :
    (s.phase = .iPd1 ∨ s.phase = .iPd2) ∧
      (Blocked s t ∨ Failed (fun e => .busWrite [regCtrl, s.config.codePd] (.err e)) s t ∨
        Done (fun _ => .busWrite [regCtrl, s.config.codePd] .ok) (fun _ => State.advance) s t) := by
  obtain ⟨hm, hr⟩ := issuing_next.mp h
  exact ⟨microOp_wrCtrlPd_iff.mp hm, transportAck_cases hr⟩

theorem execWrCtrlFuse_cases {s t : State} (h : execWrCtrlFuse s = .next t) :
    s.phase = .iFuse ∧
      (Blocked s t ∨ Failed (fun e => .busWrite [regCtrl, s.config.codeFuse] (.err e)) s t ∨
        Done (fun _ => .busWrite [regCtrl, s.config.codeFuse] .ok) (fun _ => State.advance) s t) := by
  obtain ⟨hm, hr⟩ := issuing_next.mp h
  exact ⟨microOp_wrCtrlFuse_iff.mp hm, transportAck_cases hr⟩

theorem execWrCtrlMode_cases {a : Sens} {r : Rate} {s t : State} (h : execWrCtrlMode a r s = .next t) :
    (s.phase = .iMode ∧ s.sens.val = a ∧ s.rateTmp.val = r) ∧
      (Blocked s t ∨ Failed (fun e => .busWrite [regCtrl, modeByte a r] (.err e)) s t ∨
        Done (fun _ => .busWrite [regCtrl, modeByte a r] .ok) (fun _ => State.advance) s t) := by
  obtain ⟨hm, hr⟩ := issuing_next.mp h
  exact ⟨microOp_wrCtrlMode_iff.mp hm, transportAck_cases hr⟩

theorem execSelCal_cases {s t : State} (h : execSelCal s = .next t) :
    s.phase = .iCalSel ∧ (Blocked s t ∨ Failed (fun e => .busWrite [regCal] (.err e)) s t ∨
      Done (fun _ => .busWrite [regCal] .ok) (fun _ => State.advance) s t) := by
  obtain ⟨hm, hr⟩ := issuing_next.mp h
  exact ⟨microOp_selCal_iff.mp hm, transportAck_cases hr⟩

theorem execSelStatus_cases {s t : State} (h : execSelStatus s = .next t) :
    s.phase = .sStSel ∧ (Blocked s t ∨ Failed (fun e => .busWrite [regStatus] (.err e)) s t ∨
      Done (fun _ => .busWrite [regStatus] .ok) (fun _ => State.advance) s t) := by
  obtain ⟨hm, hr⟩ := issuing_next.mp h
  exact ⟨microOp_selStatus_iff.mp hm, transportAck_cases hr⟩

theorem execSelData_cases {s t : State} (h : execSelData s = .next t) :
    s.phase = .sDSel ∧ (Blocked s t ∨ Failed (fun e => .busWrite [regData] (.err e)) s t ∨
      Done (fun _ => .busWrite [regData] .ok) (fun _ => State.advance) s t) := by
  obtain ⟨hm, hr⟩ := issuing_next.mp h
  exact ⟨microOp_selData_iff.mp hm, transportAck_cases hr⟩

theorem execRdCal_cases {s t : State} (h : execRdCal s = .next t) :
    s.phase = .iCalRd ∧ (Blocked s t ∨ Failed (fun e => .busRead 3 (.err e)) s t ∨
      Done (fun d => .busRead 3 (.ok [d.b0, d.b1, d.b2]))
        (fun d u => ({ u with asa := Reg.write (trimBytes d) }).advance) s t) := by
  obtain ⟨hm, hr⟩ := issuing_next.mp h
  exact ⟨microOp_rdCal_iff.mp hm, transportRead_cases hr⟩

theorem execRdStatus_cases {s t : State} (h : execRdStatus s = .next t) :
    s.phase = .sStRd ∧ (Blocked s t ∨ Failed (fun e => .busRead 1 (.err e)) s t ∨
      Done (fun d => .busRead 1 (.ok [d.b0])) (fun d u => u.statusRead d.b0) s t) := by
  obtain ⟨hm, hr⟩ := issuing_next.mp h
  exact ⟨microOp_rdStatus_iff.mp hm, transportRead_cases hr⟩

theorem execRdData_cases {s t : State} (h : execRdData s = .next t) :
    s.phase = .sDRd ∧ (Blocked s t ∨ Failed (fun e => .busRead 7 (.err e)) s t ∨
      Done (fun d => .busRead 7 (.ok (blockBytes d))) (fun d u => u.dataRead d) s t) := by
  obtain ⟨hm, hr⟩ := issuing_next.mp h
  exact ⟨microOp_rdData_iff.mp hm, transportRead_cases hr⟩

/-- DELAY never blocks and never fails: it advances, or ends INIT from the last wait. -/
theorem execDelay_cases {d : Duration} {s t : State} (h : execDelay d s = .next t) :
    s.phase.wait = some d ∧
      ((s.phase ≠ .iWait4 ∧ t = (s.record (.delay (durationMicros d))).advance) ∨
        (s.phase = .iWait4 ∧ t = (s.record (.delay (durationMicros d))).completeInit)) := by
  obtain ⟨hm, hr⟩ := issuing_next.mp h
  refine ⟨microOp_delay_iff.mp hm, ?_⟩
  split at hr <;> cases hr
  · exact .inr ⟨‹_›, rfl⟩
  · exact .inl ⟨‹_›, rfl⟩

/-- The DRDY test (42_sample R185). -/
theorem statusRead_ready {s : State} {st : Byte} (h : drdy st = true) :
    s.statusRead st = ({ s with st1 := Reg.write st } : State).advance := if_pos h

theorem statusRead_notReady {s : State} {st : Byte} (h : drdy st = false) :
    s.statusRead st = ({ s with st1 := Reg.write st } : State).endSample .notReady := if_neg (by simp [h])

-- The meanings of the host commands.

theorem execInit_cases {a : Rate} {b : Sens} {c : Bool} {d : DevAddr} {e : Byte} {s t : State}
    (h : execInit a b c d e s = .next t) :
    (s.phase.isIdle = false ∧ t = s) ∨
    (s.phase.isIdle = true ∧ (Instr.init a b c d e).wellFormed = true ∧
      t = (s.accept (encodeInit a b c d e)).beginInit a b (resolveAddr c d) e) ∨
    (s.phase.isIdle = true ∧ (Instr.init a b c d e).wellFormed = false ∧
      t = s.refuse (encodeInit a b c d e) .refusedIllegal) := by
  unfold execInit at h
  split at h
  · split at h <;> cases h <;> simp_all
  · cases h; simp_all

theorem execSample_cases {s t : State} (h : execSample s = .next t) :
    (s.phase.isIdle = false ∧ t = s) ∨
    (s.phase.isIdle = true ∧ s.cfgValid = true ∧ t = (s.accept encodeSample).enter .sStSel) ∨
    (s.phase.isIdle = true ∧ s.cfgValid = false ∧ t = s.refuse encodeSample .refusedNotConfigured) := by
  unfold execSample at h
  split at h
  · split at h <;> cases h <;> simp_all
  · cases h; simp_all

theorem execDecode_cases {b : Block} {s t : State} (h : execDecode b s = .next t) :
    (s.phase.isIdle = false ∧ t = s) ∨
    (s.phase.isIdle = true ∧ s.cfgValid = true ∧
      t = (s.accept (encodeDecode b)).respond (decodeResponse (sampleDecode b s.sens.val s.asa.val) false)) ∨
    (s.phase.isIdle = true ∧ s.cfgValid = false ∧ t = s.refuse (encodeDecode b) .refusedNotConfigured) := by
  unfold execDecode at h
  split at h
  · split at h <;> cases h <;> simp_all
  · cases h; simp_all

end Sys2Proof.Machine
end

