-- ==== Sys2Proof/Laws/Step.lean ====
section
/-! SUPPORT. What a step can do, said once. -/

namespace Sys2Proof.Machine

/-- A decoded command word is a host command. -/
theorem decodeCommand_is_command {w : Word} {i : Instr} (h : decodeCommand w = .ok i) :
    (∃ a b c d e, i = .init a b c d e) ∨ i = .sample ∨ ∃ b, i = .decode b := by
  unfold decodeCommand at h
  split at h
  · split at h
    · cases h
    · split at h <;> cases h
      exact .inl ⟨_, _, _, _, _, rfl⟩
  · split at h
    · split at h <;> cases h
      exact .inr (.inl rfl)
    · split at h
      · split at h <;> cases h
        exact .inr (.inr ⟨_, rfl⟩)
      · cases h

theorem step_reset {s : State} {moves : List HostMove} (h : s.host = .reset :: moves) :
    step s = .next (s.withHost moves).takeReset := by
  simp [step, fetch, h]

theorem step_command {s : State} {w : Word} {moves : List HostMove} {i : Instr} (hp : s.phase.isIdle = true)
    (h : s.host = .cmd w :: moves) (hd : decodeCommand w = .ok i) : step s = exec i (s.withHost moves) := by
  simp [step, fetch, fetchWord, h, hp, hd]

theorem step_illegal {s : State} {w : Word} {moves : List HostMove} {why : Reject} (hp : s.phase.isIdle = true)
    (h : s.host = .cmd w :: moves) (hd : decodeCommand w = .error why) :
    step s = .next ((s.withHost moves).refuse w .refusedIllegal) := by
  simp [step, fetch, fetchWord, h, hp, hd]

/-- A step that finds nothing but the phase's micro-operation to do, if there is one. -/
theorem step_fetchMicroOp {s u : State} (h : fetch s = fetchMicroOp u) :
    (∃ i, u.microOp = some i ∧ step s = exec i u) ∨ (u.microOp = none ∧ step s = .next u) := by
  unfold step
  rw [h]
  cases hm : u.microOp <;> simp [fetchMicroOp, hm]

/-- What the state's host moves are after a step that took at most a pause. -/
def MovesAfter (s : State) (moves : List HostMove) : Prop := moves = s.host ∨ s.host = .pause :: moves

/-- Everything a step can be: Reset, waiting, an illegal word, an accepted or refused command, a micro-operation. -/
theorem step_cases {s t : State} (h : step s = .next t) :
    (∃ moves, s.host = .reset :: moves ∧ t = (s.withHost moves).takeReset) ∨
    (∃ moves, s.phase.isIdle = true ∧ MovesAfter s moves ∧ t = s.withHost moves) ∨
    (∃ w moves why, s.phase.isIdle = true ∧ s.host = .cmd w :: moves ∧ decodeCommand w = .error why ∧
      t = (s.withHost moves).refuse w .refusedIllegal) ∨
    (∃ w moves i, s.phase.isIdle = true ∧ s.host = .cmd w :: moves ∧ decodeCommand w = .ok i ∧
      exec i (s.withHost moves) = .next t) ∨
    (∃ moves i, s.microOp = some i ∧ MovesAfter s moves ∧ exec i (s.withHost moves) = .next t) := by
  have micro : ∀ moves, MovesAfter s moves → fetch s = fetchMicroOp (s.withHost moves) →
      (∃ moves, s.phase.isIdle = true ∧ MovesAfter s moves ∧ t = s.withHost moves) ∨
      (∃ moves i, s.microOp = some i ∧ MovesAfter s moves ∧ exec i (s.withHost moves) = .next t) := by
    intro moves hm hf
    rcases step_fetchMicroOp hf with ⟨i, hi, hs⟩ | ⟨hn, hs⟩
    · exact .inr ⟨moves, i, hi, hm, hs ▸ h⟩
    · refine .inl ⟨moves, ?_, hm, ?_⟩
      · have : s.microOp = none := hn
        by_contra hc
        have := microOp_isSome_iff.mpr (Bool.eq_false_iff.mpr hc)
        simp_all
      · rw [hs] at h; cases h; rfl
  cases hh : s.host with
  | nil =>
    rcases micro s.host (.inl rfl) (by show fetch s = fetchMicroOp s; simp [fetch, hh]) with h2 | h5
    · exact .inr (.inl h2)
    · exact .inr (.inr (.inr (.inr h5)))
  | cons m moves =>
    cases m with
    | reset => rw [step_reset hh] at h; cases h; exact .inl ⟨moves, rfl, rfl⟩
    | pause =>
      rcases micro moves (.inr hh) (by simp [fetch, hh]) with h2 | h5
      · exact .inr (.inl h2)
      · exact .inr (.inr (.inr (.inr h5)))
    | cmd w =>
      by_cases hp : s.phase.isIdle = true
      · cases hd : decodeCommand w with
        | error why =>
          rw [step_illegal hp hh hd] at h; cases h
          exact .inr (.inr (.inl ⟨w, moves, why, hp, rfl, hd, rfl⟩))
        | ok i =>
          rw [step_command hp hh hd] at h
          exact .inr (.inr (.inr (.inl ⟨w, moves, i, hp, rfl, hd, h⟩)))
      · rcases micro s.host (.inl rfl) (by show fetch s = fetchMicroOp s; simp [fetch, hh, hp]) with h2 | h5
        · exact .inr (.inl h2)
        · exact .inr (.inr (.inr (.inr h5)))

end Sys2Proof.Machine
end

