-- ==== Sys2Proof/Laws/MicroOps.lean ====
section
/-! SUPPORT. The micro-operations of all phases in one inversion lemma: nothing happens, the bus error, or the phase's
effect. -/

namespace Sys2Proof.Machine

/-- The state after the micro-operation of the phase of `s`, when the environment answered ok with `d` (41_init R152,
42_sample R182): for reading what `exec_microOp_cases` says, phase by phase. -/
def phaseEffect (d : Block) (s : State) : State :=
  match s.phase with
  | .unconf => s
  | .ready => s
  | .iOpen => ({ s.record (.busOpen s.busId.val s.devAddr.val .ok) with
      handle := some { bus := s.busId.val, dev := s.devAddr.val } } : State).enter .iPd1
  | .iPd1 => (s.record (.busWrite [0x0A, s.config.codePd] .ok)).enter .iWait1
  | .iWait1 => (s.record (.delay 1000)).enter .iFuse
  | .iFuse => (s.record (.busWrite [0x0A, s.config.codeFuse] .ok)).enter .iWait2
  | .iWait2 => (s.record (.delay 1000)).enter .iCalSel
  | .iCalSel => (s.record (.busWrite [0x10] .ok)).enter .iCalRd
  | .iCalRd => ({ s.record (.busRead 3 (.ok [d.b0, d.b1, d.b2])) with
      asa := Reg.write { x := d.b0, y := d.b1, z := d.b2 } } : State).enter .iPd2
  | .iPd2 => (s.record (.busWrite [0x0A, s.config.codePd] .ok)).enter .iWait3
  | .iWait3 => (s.record (.delay 100)).enter .iMode
  | .iMode => (s.record (.busWrite [0x0A, modeByte s.sens.val s.rateTmp.val] .ok)).enter .iWait4
  | .iWait4 => (s.record (.delay 100)).completeInit
  | .sStSel => (s.record (.busWrite [0x02] .ok)).enter .sStRd
  | .sStRd => if drdy d.b0 then
        ({ s.record (.busRead 1 (.ok [d.b0])) with st1 := Reg.write d.b0 } : State).enter .sDSel
      else (s.record (.busRead 1 (.ok [d.b0]))).endSample .notReady
  | .sDSel => (s.record (.busWrite [0x03] .ok)).enter .sDRd
  | .sDRd => (s.record (.busRead 7 (.ok (blockBytes d)))).endSample
      (decodeResponse (sampleDecode d s.sens.val s.asa.val) (dor s.st1.val))

/-- What a micro-operation leaves: blocked, the bus error, or the phase's effect (of DELAY: always the effect). -/
def MicroResult (i : Instr) (s t : State) : Prop :=
  (s.answers = [] ∧ t = s) ∨
  (∃ e rest ev, s.answers = .err e :: rest ∧ failedEvent i e s = some ev ∧
    t = ((s.withAnswers rest).record ev).busError e) ∨
  (∃ d rest, s.answers = .ok d :: rest ∧ t = phaseEffect d (s.withAnswers rest)) ∨
  (s.phase.wait ≠ none ∧ ∀ d, t = phaseEffect d s)

theorem microResult_of_cases {i : Instr} {s t : State} {ev : BusErr → Event} {dv : Block → Event}
    {onOk : Block → State → State} (hc : Blocked s t ∨ Failed ev s t ∨ Done dv onOk s t)
    (hf : ∀ e, failedEvent i e s = some (ev e))
    (hd : ∀ d rest, onOk d ((s.withAnswers rest).record (dv d)) =
      phaseEffect d (s.withAnswers rest)) : MicroResult i s t := by
  rcases hc with h | ⟨e, rest, ha, ht⟩ | ⟨d, rest, ha, ht⟩
  · exact .inl h
  · exact .inr (.inl ⟨e, rest, _, ha, hf e, ht⟩)
  · exact .inr (.inr (.inl ⟨d, rest, ha, ht.trans (hd d rest)⟩))

/-- Everything the micro-operation of a phase can do. -/
theorem exec_microOp_cases {i : Instr} {s t : State} (hm : s.microOp = some i) (h : exec i s = .next t) :
    MicroResult i s t := by
  have wait : ∀ d, s.microOp = some (.delay d) → exec (.delay d) s = .next t → MicroResult (.delay d) s t := by
    intro d hd hx
    obtain ⟨hw, ht⟩ := execDelay_cases hx
    refine .inr (.inr (.inr ⟨by simp [hw], fun _ => ?_⟩))
    revert hw ht
    cases hp : s.phase <;> simp [Phase.wait, phaseEffect, hp, State.advance, Phase.onOk] <;>
      (rintro rfl rfl; rfl)
  unfold State.microOp at hm
  split at hm <;> cases hm <;> rename_i hp
  case h_3 =>
    exact microResult_of_cases (execBusOpen_cases h).2 (fun _ => rfl)
      (fun _ _ => by simp [phaseEffect, hp, State.advance, Phase.onOk])
  case h_4 | h_10 =>
    exact microResult_of_cases (execWrCtrlPd_cases h).2 (fun _ => rfl)
      (fun _ _ => by simp [phaseEffect, hp, State.advance, Phase.onOk, regCtrl])
  case h_6 =>
    exact microResult_of_cases (execWrCtrlFuse_cases h).2 (fun _ => rfl)
      (fun _ _ => by simp [phaseEffect, hp, State.advance, Phase.onOk, regCtrl])
  case h_12 =>
    exact microResult_of_cases (execWrCtrlMode_cases h).2 (fun _ => rfl)
      (fun _ _ => by simp [phaseEffect, hp, State.advance, Phase.onOk, regCtrl])
  case h_8 =>
    exact microResult_of_cases (execSelCal_cases h).2 (fun _ => rfl)
      (fun _ _ => by simp [phaseEffect, hp, State.advance, Phase.onOk, regCal])
  case h_14 =>
    exact microResult_of_cases (execSelStatus_cases h).2 (fun _ => rfl)
      (fun _ _ => by simp [phaseEffect, hp, State.advance, Phase.onOk, regStatus])
  case h_16 =>
    exact microResult_of_cases (execSelData_cases h).2 (fun _ => rfl)
      (fun _ _ => by simp [phaseEffect, hp, State.advance, Phase.onOk, regData])
  case h_9 =>
    exact microResult_of_cases (execRdCal_cases h).2 (fun _ => rfl)
      (fun _ _ => by simp [phaseEffect, hp, State.advance, Phase.onOk, trimBytes])
  case h_15 =>
    exact microResult_of_cases (execRdStatus_cases h).2 (fun _ => rfl)
      (fun d _ => by
        cases hd : drdy d.b0
        · rw [statusRead_notReady hd]; simp [phaseEffect, hp, hd]; rfl
        · rw [statusRead_ready hd]; simp [phaseEffect, hp, hd, State.advance, Phase.onOk])
  case h_17 =>
    exact microResult_of_cases (execRdData_cases h).2 (fun _ => rfl)
      (fun _ _ => by simp [phaseEffect, hp]; rfl)
  case h_5 | h_7 | h_11 | h_13 =>
    exact wait _ (by simp [State.microOp, hp]) h

/-- The micro-operation of a phase always answers next. -/
theorem exec_microOp_total {i : Instr} {s : State} (h : s.microOp = some i) : ∃ t, exec i s = .next t := by
  have hm := h
  unfold State.microOp at hm
  split at hm <;> cases hm
  all_goals
    simp only [exec, execBusOpen, execWrCtrlPd, execWrCtrlFuse, execWrCtrlMode, execSelCal, execSelStatus, execSelData,
      execRdCal, execRdStatus, execRdData, execDelay, regWrite, regSelect, issuing_of _ h]
  all_goals first | exact transportAck_total _ _ _ | exact transportRead_total _ _ _ | exact ⟨_, rfl⟩

/-- With the answer ok, or in a wait, the micro-operation of a phase has the phase's effect. -/
theorem exec_effect {i : Instr} {s : State} (d : Block) (rest : List Answer) (h : s.microOp = some i)
    (ha : s.phase.wait = none → s.answers = .ok d :: rest) :
    exec i s = .next (phaseEffect d (if s.phase.wait = none then s.withAnswers rest else s)) := by
  obtain ⟨t, ht⟩ := exec_microOp_total h
  rw [ht]
  rcases exec_microOp_cases h ht with ⟨hn, -⟩ | ⟨e, r, ev, he, hf, -⟩ | ⟨c, r, hc, rfl⟩ | ⟨hw, he⟩
  · by_cases hw : s.phase.wait = none
    · rw [ha hw] at hn; cases hn
    · revert hw h
      unfold State.microOp
      cases hp : s.phase <;> simp [Phase.wait] <;> rintro rfl
      all_goals
        obtain ⟨-, hx⟩ := execDelay_cases ht
        simpa [hp, phaseEffect, State.advance, Phase.onOk, durationMicros] using hx
  · have hw : s.phase.wait = none := by
      revert h; unfold State.microOp
      cases s.phase <;> simp [Phase.wait] <;> rintro rfl <;> simp [failedEvent] at hf
    rw [ha hw] at he; cases he
  · by_cases hw : s.phase.wait = none
    · rw [ha hw] at hc; cases hc; rw [if_pos hw]
    · revert hw h
      unfold State.microOp
      cases hp : s.phase <;> simp [Phase.wait] <;> rintro rfl
      all_goals
        obtain ⟨-, hx⟩ := execDelay_cases ht
        simpa [hp, phaseEffect, State.advance, Phase.onOk, durationMicros] using hx
  · rw [if_neg hw, he d]

/-- With the answer `err(e)`, a transport operation of a phase takes the bus error. -/
theorem exec_failed {i : Instr} {s : State} {e : BusErr} {rest : List Answer} {ev : Event} (hm : s.microOp = some i)
    (hf : failedEvent i e s = some ev) (ha : s.answers = .err e :: rest) :
    exec i s = .next (((s.withAnswers rest).record ev).busError e) := by
  obtain ⟨t, ht⟩ := exec_microOp_total hm
  rw [ht]
  rcases exec_microOp_cases hm ht with ⟨hn, -⟩ | ⟨f, r, fv, he, hg, rfl⟩ | ⟨c, r, hc, -⟩ | ⟨hw, -⟩
  · rw [ha] at hn; cases hn
  · rw [ha] at he; cases he; rw [hf] at hg; cases hg; rfl
  · rw [ha] at hc; cases hc
  · revert hm; unfold State.microOp
    cases hp : s.phase <;> simp [hp, Phase.wait] at hw ⊢ <;> rintro rfl <;> simp [failedEvent] at hf

/-- The history only grows by a phase's effect, by the bus error, and the parameters stay. -/
theorem phaseEffect_trace (d : Block) (s : State) :
    (phaseEffect d s).config = s.config ∧ ∃ new, (phaseEffect d s).trace = s.trace ++ new := by
  cases hd : drdy d.b0 <;> cases hp : s.phase <;>
    simp [phaseEffect, hp, hd, State.endSample, State.completeInit]

theorem busError_trace (e : BusErr) (s : State) :
    (s.busError e).config = s.config ∧ (s.busError e).trace = s.trace ++ [.rsp (.busError e)] := by
  unfold State.busError
  split <;> simp [State.endSample]

end Sys2Proof.Machine
end

