-- ==== Sys2Proof/Laws/Keeps.lean ====
section
/-! SUPPORT. The case split of a step packaged once: a property that every named change keeps is kept by every step. -/

namespace Sys2Proof.Machine

/-- What a host command leaves when it is accepted or refused in an idle phase. -/
theorem exec_command_cases {w : Word} {i : Instr} {s t : State} (hd : decodeCommand w = .ok i)
    (hp : s.phase.isIdle = true) (h : exec i s = .next t) :
    (∃ rate sens addrValid addr bus, i = .init rate sens addrValid addr bus ∧
      t = (s.accept (encodeInit rate sens addrValid addr bus)).beginInit rate sens (resolveAddr addrValid addr) bus) ∨
    (∃ v r, t = s.refuse v r) ∨
    (i = .sample ∧ s.cfgValid = true ∧ t = (s.accept encodeSample).enter .sStSel) := by
  rcases decodeCommand_is_command hd with ⟨a, b, c, d, e, rfl⟩ | rfl | ⟨b, rfl⟩
  · rcases execInit_cases h with ⟨hi, -⟩ | ⟨-, -, rfl⟩ | ⟨-, -, rfl⟩
    · simp [hp] at hi
    · exact .inl ⟨a, b, c, d, e, rfl, rfl⟩
    · exact .inr (.inl ⟨_, _, rfl⟩)
  · rcases execSample_cases h with ⟨hi, -⟩ | ⟨-, hc, rfl⟩ | ⟨-, -, rfl⟩
    · simp [hp] at hi
    · exact .inr (.inr ⟨rfl, hc, rfl⟩)
    · exact .inr (.inl ⟨_, _, rfl⟩)
  · rcases execDecode_cases h with ⟨hi, -⟩ | ⟨-, -, rfl⟩ | ⟨-, -, rfl⟩
    · simp [hp] at hi
    · exact .inr (.inl ⟨_, _, rfl⟩)
    · exact .inr (.inl ⟨_, _, rfl⟩)

/-- The changes that make up every step, each keeping a property `P` of states. -/
structure Keeps (P : State → Prop) : Prop where
  outside : ∀ s moves answers, P s → P ((s.withHost moves).withAnswers answers)
  reset : ∀ s, P s → P s.takeReset
  refuse : ∀ s w r, s.phase.isIdle = true → P s → P (s.refuse w r)
  init : ∀ s w rate sens dev bus, s.phase.isIdle = true → P s → P ((s.accept w).beginInit rate sens dev bus)
  sample : ∀ s, s.phase.isIdle = true → s.cfgValid = true → P s → P ((s.accept encodeSample).enter .sStSel)
  error : ∀ s i ev e, s.microOp = some i → failedEvent i e s = some ev → P s → P ((s.record ev).busError e)
  effect : ∀ s d, s.phase.isIdle = false → P s → P (phaseEffect d s)

/-- Every step keeps what its changes keep. -/
theorem Keeps.step {P : State → Prop} (k : Keeps P) {s t : State} (hs : P s) (h : step s = .next t) : P t := by
  have outside : ∀ moves, P (s.withHost moves) := fun moves => k.outside s moves s.answers hs
  rcases step_cases h with ⟨m, -, rfl⟩ | ⟨m, -, -, rfl⟩ | ⟨w, m, why, hp, -, -, rfl⟩ | ⟨w, m, i, hp, -, hd, hx⟩ |
      ⟨m, i, hmo, -, hx⟩
  · exact k.reset _ (outside m)
  · exact outside m
  · exact k.refuse _ _ _ hp (outside m)
  · rcases exec_command_cases (s := s.withHost m) hd hp hx with
      ⟨_, _, _, _, _, -, rfl⟩ | ⟨_, _, rfl⟩ | ⟨-, hc, rfl⟩
    · exact k.init _ _ _ _ _ _ hp (outside m)
    · exact k.refuse _ _ _ hp (outside m)
    · exact k.sample _ hp hc (outside m)
  · have busy : s.phase.isIdle = false := microOp_isSome_iff.mp (by simp [hmo])
    rcases exec_microOp_cases (s := s.withHost m) hmo hx with ⟨-, rfl⟩ | ⟨e, rest, ev, -, hf, rfl⟩ |
        ⟨d, rest, -, rfl⟩ | ⟨-, ht⟩
    · exact outside m
    · refine k.error ((s.withHost m).withAnswers rest) i ev e hmo ?_ (k.outside s m rest hs)
      rw [← hf]; cases i <;> rfl
    · exact k.effect ((s.withHost m).withAnswers rest) d busy (k.outside s m rest hs)
    · rw [ht ⟨0, 0, 0, 0, 0, 0, 0⟩]
      exact k.effect _ _ busy (outside m)

/-- A decoded command always answers next, in every state. -/
theorem exec_command_total {w : Word} {i : Instr} (s : State) (hd : decodeCommand w = .ok i) :
    ∃ t, exec i s = .next t := by
  rcases decodeCommand_is_command hd with ⟨a, b, c, d, e, rfl⟩ | rfl | ⟨b, rfl⟩
  · show ∃ t, execInit a b c d e s = .next t
    unfold execInit; split <;> (try split) <;> exact ⟨_, rfl⟩
  · show ∃ t, execSample s = .next t
    unfold execSample; split <;> (try split) <;> exact ⟨_, rfl⟩
  · show ∃ t, execDecode b s = .next t
    unfold execDecode; split <;> (try split) <;> exact ⟨_, rfl⟩

end Sys2Proof.Machine
end

