-- ==== Sys2Proof/Laws/PerInstr.lean ====
section
/-! SUPPORT. The statement made instruction by instruction: the shape of what an instruction puts on its port. -/

namespace Sys2Proof.Laws.FrameShape

/-- The shapes of 30_encoding R91 and R100: a command word; a write of the address byte alone (frame W1) or of address
and value (W2, to the control register only); a read of 1, 3 or 7 bytes (RDn). -/
def legalShape : Wire → Prop
  | .command w => w.toNat / 2 ^ 60 = 1 ∨ w.toNat / 2 ^ 60 = 2 ∨ w.toNat / 2 ^ 60 = 3
  | .busWrite [a] => a = regStatus ∨ a = regData ∨ a = regCal
  | .busWrite [a, _] => a = regCtrl
  | .busWrite _ => False
  | .busRead n => n = 1 ∨ n = 3 ∨ n = 7

/-- Whatever an instruction is encoded as, it has a legal shape. -/
def Statement (i : Instr) : Prop := ∀ (c : Config) (wire : Wire), encode c i = some wire → legalShape wire

theorem of_encode {i : Instr} (f : Config → Wire) (h : ∀ c, encode c i = some (f c)) (hl : ∀ c, legalShape (f c)) :
    Statement i := by
  intro c wire hw
  rw [h c] at hw
  exact Option.some.inj hw ▸ hl c

theorem of_none {i : Instr} (h : ∀ c, encode c i = none) : Statement i := by
  intro c wire hw
  rw [h c] at hw
  cases hw

theorem init (rate : Rate) (sens : Sens) (addrValid : Bool) (addr : DevAddr) (bus : Byte) :
    Statement (.init rate sens addrValid addr bus) :=
  of_encode (fun _ => .command (encodeInit rate sens addrValid addr bus)) (fun _ => rfl) fun _ => by
    refine .inl ?_
    have := rate.bit.isLt; have := sens.bit.isLt; have := (BitVec.ofBool addrValid).isLt
    have := addr.isLt; have := bus.isLt
    rw [encodeInit_toNat]; omega

theorem sample : Statement .sample :=
  of_encode (fun _ => .command encodeSample) (fun _ => rfl) fun _ => .inr (.inl (by decide))

theorem decode (b : Block) : Statement (.decode b) :=
  of_encode (fun _ => .command (encodeDecode b)) (fun _ => rfl) fun _ => by
    refine .inr (.inr ?_)
    have := b.b0.isLt; have := b.b1.isLt; have := b.b2.isLt; have := b.b3.isLt
    have := b.b4.isLt; have := b.b5.isLt; have := b.b6.isLt
    rw [encodeDecode_toNat]; omega

theorem busOpen : Statement .busOpen := of_none fun _ => rfl
theorem wrCtrlPd : Statement .wrCtrlPd := of_encode (fun c => .busWrite [regCtrl, c.codePd]) (fun _ => rfl) fun _ => rfl
theorem wrCtrlFuse : Statement .wrCtrlFuse :=
  of_encode (fun c => .busWrite [regCtrl, c.codeFuse]) (fun _ => rfl) fun _ => rfl
theorem wrCtrlMode (sens : Sens) (rate : Rate) : Statement (.wrCtrlMode sens rate) :=
  of_encode (fun _ => .busWrite [regCtrl, modeByte sens rate]) (fun _ => rfl) fun _ => rfl
theorem selCal : Statement .selCal := of_encode (fun _ => .busWrite [regCal]) (fun _ => rfl) fun _ => .inr (.inr rfl)
theorem selStatus : Statement .selStatus := of_encode (fun _ => .busWrite [regStatus]) (fun _ => rfl) fun _ => .inl rfl
theorem selData : Statement .selData :=
  of_encode (fun _ => .busWrite [regData]) (fun _ => rfl) fun _ => .inr (.inl rfl)
theorem rdCal : Statement .rdCal := of_encode (fun _ => .busRead 3) (fun _ => rfl) fun _ => .inr (.inl rfl)
theorem rdStatus : Statement .rdStatus := of_encode (fun _ => .busRead 1) (fun _ => rfl) fun _ => .inl rfl
theorem rdData : Statement .rdData := of_encode (fun _ => .busRead 7) (fun _ => rfl) fun _ => .inr (.inr rfl)
theorem delay (t : Duration) : Statement (.delay t) := of_none fun _ => rfl

end Sys2Proof.Laws.FrameShape
end

