-- ==== Sys2Proof/Tests/Slice0.lean ====
section
/-! SUPPORT. Tests with results from spec/95_test_vectors.md and the rules' own examples, and for every statement with
hypotheses a witness that meets them together. -/

namespace Sys2Proof.Tests

open Sys2Proof.Machine

-- Helpers: small states and readings of an outcome.

/-- The state a step or meaning answers. -/
def after (o : Out) : Option State :=
  match o with
  | .next t => some t
  | .fault _ => none
  | .refused _ => none

/-- READY with `sens` = 1 and `asa` = [128,128,128] (95_test_vectors 2.4), the history cut to what tells. -/
def ready : State :=
  { State.reset with
    phase := .ready, cfgValid := true
    busId := ⟨1, true⟩, devAddr := ⟨0x0C, true⟩, sens := ⟨.opt16bit, true⟩, asa := ⟨⟨128, 128, 128⟩, true⟩
    handle := some ⟨1, 0x0C⟩, rsp := some .ok
    trace := [.reset, .cmd 0x1000000000030001, .busWrite [0x0A, 0x16] .ok, .rsp .ok] }

/-- The block of the source's end-to-end numbers. -/
def numbers : Block := ⟨0x64, 0x00, 0xC8, 0x00, 0x2C, 0x01, 0x00⟩

/-- A draw whose first byte is `b`. -/
def byteDraw (b : Byte) : Answer := .ok ⟨b, 0, 0, 0, 0, 0, 0⟩

/-- A phase of a command, with the coming answers: the registers as an INIT bus=3 addr=0x0e sens=16 rate=100 or the
epoch of `ready` left them. -/
def busy (p : Phase) (answers : List Answer) : State :=
  if p.inInit then
    { State.reset with
      phase := p, timer := p.wait, busId := ⟨3, true⟩, devAddr := ⟨0x0E, true⟩, sens := ⟨.opt16bit, true⟩
      rateTmp := ⟨.opt100Hz, true⟩, handle := if p.handleHeld then some ⟨3, 0x0E⟩ else none, answers := answers
      trace := [.reset, .cmd 0x1000000000038E03] }
  else { ready with phase := p, rsp := none, st1 := ⟨0x03, p.statusHeld⟩, answers := answers }

/-- The events a step or meaning adds. -/
def news (s : State) (o : Out) : Option (List Event) := (after o).map (fun t => t.trace.drop s.trace.length)

/-- The response standing after a step or meaning. -/
def answered (o : Out) : Option Response := (after o).bind (fun t => t.rsp)

/-- The phase after a step or meaning. -/
def phaseAfter (o : Out) : Option Phase := (after o).map (fun t => t.phase)

-- Well-formedness (30_encoding R92).

theorem test_illFormed_init : (Instr.init .opt8Hz .opt14bit false 0x0D 0).wellFormed = false ∧
    (Instr.init .opt8Hz .opt14bit true 0x0D 0).wellFormed = true := by decide

theorem test_illFormed_init_rejected :
    decodeCommand 0x1000000000000D00 = .error .initAddrWithoutValid ∧
    answered (exec (.init .opt8Hz .opt14bit false 0x0D 0) ready) = some .refusedIllegal := by decide

-- Decoding, words written out bit by bit from 30_encoding R92, R94, R95, R102, R103 and the opcode table.

theorem test_decode_init_bits :
    decodeCommand 0b0001000000000000000000000000000000000000000000111000111000000011 =
      .ok (.init .opt100Hz .opt16bit true 0x0E 3) := by decide

theorem test_decode_init_rate_and_sens_bits :
    decodeCommand 0b0001000000000000000000000000000000000000000000100000000000000001 =
      .ok (.init .opt100Hz .opt14bit false 0 1) ∧
    decodeCommand 0b0001000000000000000000000000000000000000000000010000000000000010 =
      .ok (.init .opt8Hz .opt16bit false 0 2) := by decide

theorem test_decode_sample_bits :
    decodeCommand 0b0010000000000000000000000000000000000000000000000000000000000000 = .ok .sample := by decide

theorem test_decode_decode_bits :
    decodeCommand 0b0011000000000000000000010010110000000000110010000000000001100100 = .ok (.decode numbers) := by decide

theorem test_decode_illegal_words :
    decodeCommand 0x0000000000000000 = .error .reservedOpcode ∧
    decodeCommand 0x4000000000000000 = .error .reservedOpcode ∧
    decodeCommand 0x1000000000040000 = .error .initReservedBits ∧
    decodeCommand 0x2000000000000001 = .error .sampleReservedBits ∧
    decodeCommand 0x3100000000000000 = .error .decodeReservedBits := by decide

theorem test_decode_frames :
    decodeTableWord 16 0b0000101000000000 = some .wrCtrlPd ∧ decodeTableWord 16 0b0000101000001111 = some .wrCtrlFuse ∧
    decodeTableWord 16 0b0000101000000010 = some (.wrCtrlMode .opt14bit .opt8Hz) ∧
    decodeTableWord 16 0b0000101000000110 = some (.wrCtrlMode .opt14bit .opt100Hz) ∧
    decodeTableWord 16 0b0000101000010010 = some (.wrCtrlMode .opt16bit .opt8Hz) ∧
    decodeTableWord 16 0b0000101000010110 = some (.wrCtrlMode .opt16bit .opt100Hz) ∧
    decodeTableWord 8 0b00010000 = some .selCal ∧ decodeTableWord 8 0b00000010 = some .selStatus ∧
    decodeTableWord 8 0b00000011 = some .selData := by decide

theorem test_decode_reads :
    decodeRead 3 = .ok .rdCal ∧ decodeRead 1 = .ok .rdStatus ∧ decodeRead 7 = .ok .rdData ∧
    decodeRead 6 = .error .unknownCount ∧ decodeWrite Config.default [0x0B, 0x00] = .error .unknownFrame := by decide

-- A placed word runs as the next step.

theorem test_placed_init : news State.reset (step (State.reset.withFetchWord 64 0x1000000000030001)) =
    some [.cmd 0x1000000000030001] := by decide

theorem test_placed_mode_frame : news State.reset (step (State.reset.withFetchWord 16 0x0A16)) =
    some [.busWrite [0x0A, 0x16] .ok] := by decide

theorem test_placed_select : news State.reset (step (State.reset.withFetchWord 8 0x03)) =
    some [.busWrite [0x03] .ok] := by decide

-- The host commands.

/-- S10 and R93: the default address. -/
theorem test_init_default_address :
    (after (exec (.init .opt100Hz .opt16bit false 0 1) State.reset)).map (fun t => (t.busId.val, t.devAddr.val)) =
      some (1, 0x0C) := by decide

/-- R151, R166 (a): INIT in READY drops the epoch's configuration. -/
theorem test_init_in_ready :
    (after (exec (.init .opt8Hz .opt14bit true 0x0D 0) ready)).map (fun t => (t.phase, t.cfgValid, t.handle, t.asa.held)) =
      some (.iOpen, false, none, false) := by decide

theorem test_sample_accepted : phaseAfter (exec .sample ready) = some .sStSel := by decide

/-- 95_test_vectors 2.8. -/
theorem test_sample_refused : answered (exec .sample State.reset) = some .refusedNotConfigured := by decide

/-- R212's worked example. -/
theorem test_decode_numbers :
    answered (exec (.decode numbers) ready) =
      some (.sample ⟨⟨100, 200, 300⟩, ⟨7859200, 15718400, 23577600⟩, false⟩) := by decide

theorem test_decode_saturated : answered (exec (.decode ⟨1, 2, 3, 4, 5, 6, 8⟩) ready) = some .saturated := by decide

-- The micro-operations (95_test_vectors 2.3 and 2.4).

theorem test_open_event : news (busy .iOpen []) (exec .busOpen (busy .iOpen [byteDraw 0])) =
    some [.busOpen 3 0x0E .ok] := by decide

theorem test_open_fails : news (busy .iOpen []) (exec .busOpen (busy .iOpen [.err 0x40])) =
    some [.busOpen 3 0x0E (.err 0x40), .rsp (.busError 0x40)] := by decide

theorem test_powerDown_frame : news (busy .iPd1 []) (exec .wrCtrlPd (busy .iPd1 [byteDraw 0])) =
    some [.busWrite [0x0A, 0x00] .ok] := by decide

theorem test_second_powerDown_waits : phaseAfter (exec .wrCtrlPd (busy .iPd2 [byteDraw 0])) = some .iWait3 := by decide

theorem test_fuse_frame : news (busy .iFuse []) (exec .wrCtrlFuse (busy .iFuse [byteDraw 0])) =
    some [.busWrite [0x0A, 0x0F] .ok] := by decide

theorem test_mode_frame : news (busy .iMode []) (exec (.wrCtrlMode .opt16bit .opt100Hz) (busy .iMode [byteDraw 0])) =
    some [.busWrite [0x0A, 0x16] .ok] := by decide

theorem test_mode_fails :
    (after (exec (.wrCtrlMode .opt16bit .opt100Hz) (busy .iMode [.err 0x46]))).map
      (fun t => (t.phase, t.cfgValid, t.handle, t.sens.held)) = some (.unconf, false, none, false) := by decide

theorem test_calSelect_frame : news (busy .iCalSel []) (exec .selCal (busy .iCalSel [byteDraw 0])) =
    some [.busWrite [0x10] .ok] := by decide

theorem test_calRead_order :
    (after (exec .rdCal (busy .iCalRd [.ok ⟨0xAA, 0xAB, 0xA0, 0, 0, 0, 0⟩]))).map (fun t => t.asa) =
      some ⟨⟨170, 171, 160⟩, true⟩ := by decide

theorem test_statusSelect_fails :
    (after (exec .selStatus (busy .sStSel [.err 0x06]))).map (fun t => (t.phase, t.cfgValid, t.rsp)) =
      some (.ready, true, some (.busError 0x06)) := by decide

/-- DOR without DRDY is not ready. -/
theorem test_status_two : answered (exec .rdStatus (busy .sStRd [byteDraw 0x02])) = some .notReady := by decide

theorem test_status_three : phaseAfter (exec .rdStatus (busy .sStRd [byteDraw 0x03])) = some .sDSel := by decide

theorem test_dataSelect_frame : news (busy .sDSel []) (exec .selData (busy .sDSel [byteDraw 0])) =
    some [.busWrite [0x03] .ok] := by decide

theorem test_data_overrun : answered (exec .rdData (busy .sDRd [.ok numbers])) =
    some (.sample ⟨⟨100, 200, 300⟩, ⟨7859200, 15718400, 23577600⟩, true⟩) := by decide

theorem test_data_saturated : answered (exec .rdData (busy .sDRd [.ok ⟨0x10, 0x27, 0xF0, 0xD8, 0, 0, 0x18⟩])) =
    some .saturated := by decide

theorem test_first_delay : news (busy .iWait1 []) (exec (.delay .tPd1) (busy .iWait1 [])) = some [.delay 1000] := by decide

theorem test_last_delay :
    (after (exec (.delay .tMode) (busy .iWait4 []))).map (fun t => (t.phase, t.cfgValid, t.rsp)) =
      some (.ready, true, some .ok) := by decide

-- Reset and waiting (95_test_vectors 2.9; 60_exceptions R236).

theorem test_reset_in_wait :
    (after (step { busy .iWait2 [] with host := [.reset, .cmd 0x2000000000000000] })).map
      (fun t => (t.phase, t.rsp, t.trace, t.host)) =
      some (.unconf, none, [.reset], [.cmd 0x2000000000000000]) := by decide

theorem test_word_waits :
    (after (step { busy .sStSel [byteDraw 0] with host := [.cmd 0x2000000000000000] })).map
      (fun t => (t.phase, t.host)) = some (.sStRd, [.cmd 0x2000000000000000]) := by decide

-- The Sample Decoder (95_test_vectors 2.5 to 2.7).

theorem test_rawAxis : (le16 0x9C 0xFF).toInt = -100 ∧ (le16 0xF0 0xD8).toInt = -10000 ∧ (le16 0x00 0x80).toInt = -32768 ∧
    (le16 0xFF 0x7F).toInt = 32767 ∧ (le16 0x00 0x01).toInt = 256 := by decide

theorem test_trimNumerator : trimNumerator 0 = 128 ∧ trimNumerator 128 = 256 ∧ trimNumerator 255 = 383 := by decide

theorem test_calibration_corners :
    sampleDecode ⟨1, 0, 1, 0, 1, 0, 0⟩ .opt16bit ⟨0, 128, 255⟩ =
      some ⟨⟨1, 1, 1⟩, ⟨0x000009980, 0x000013300, 0x00001CB4D⟩, false⟩ := by decide

theorem test_mixed_trims :
    sampleDecode ⟨0x34, 0x12, 0xCC, 0xED, 0x01, 0x00, 0x00⟩ .opt16bit ⟨100, 200, 30⟩ =
      some ⟨⟨4660, 0xEDCC, 1⟩, ⟨0x0137121F0, 0x7E407EA20, 0x00000BD7A⟩, false⟩ := by decide

/-- R98's table. -/
theorem test_kind_codes :
    [Response.ok, .sample ⟨⟨0, 0, 0⟩, ⟨0, 0, 0⟩, false⟩, .saturated, .notReady, .busError 0, .refusedNotConfigured,
      .refusedIllegal].map Response.kind = [0, 1, 2, 3, 4, 5, 6] := by decide

-- The end of a run (70_reset_and_hazards R275).

theorem test_finished : ready.finished = true ∧ (busy .sStSel []).finished = false ∧
    { ready with host := [.cmd 0x2000000000000000] }.finished = false := by decide

-- The host's side (30_encoding R112, R113).

theorem test_spelled_words :
    (Spelled.init 1 none .opt16bit .opt100Hz).word = 0x1000000000030001 ∧
    (Spelled.init 0 (some 0x0D) .opt14bit .opt8Hz).word = 0x1000000000008D00 ∧
    (Spelled.init 0 (some 0x0C) .opt14bit .opt8Hz).word = 0x1000000000008C00 ∧
    (Spelled.decode ⟨0x10, 0x27, 0xF0, 0xD8, 0, 0, 0x17⟩).word = 0x30170000D8F02710 := by decide

theorem test_poll_offers_again : ({ ready with rsp := some .notReady }.poll).host = [.cmd 0x2000000000000000] := by decide

-- Witnesses: for every statement with hypotheses, a concrete case that meets them together.

theorem test_witness_CommandWordsClassified :
    ((0x100000000003FFFF / 2 ^ 60 = 1 ∧ 0x100000000003FFFF / 2 ^ 18 % 2 ^ 42 = 0) ∧ 0x100000000003FFFF / 2 ^ 15 % 2 = 1) ∧
    0x1000000000000000 / 2 ^ 60 = 1 ∧ 0x1000000000000000 / 2 ^ 8 % 2 ^ 7 = 0 ∧
    0x30FFFFFFFFFFFFFF / 2 ^ 56 = 0x30 ∧
    (0xF000000000000000 / 2 ^ 60 ≠ 1 ∧ 0xF000000000000000 ≠ 0x2000000000000000 ∧ 0xF000000000000000 / 2 ^ 56 ≠ 0x30) ∧
    ready.phase.isIdle = true ∧ { ready with host := [.cmd 0xF000000000000000] }.host = [.cmd 0xF000000000000000] := by
  decide

theorem test_witness_EncodeThenDecode :
    codesDistinct Config.default = true ∧ (Instr.init .opt100Hz .opt16bit true 0x7F 255).wellFormed = true ∧
    encode Config.default (.init .opt100Hz .opt16bit true 0x7F 255) = some (.command 0x100000000003FFFF) ∧
    encode Config.default (.wrCtrlMode .opt16bit .opt8Hz) = some (.busWrite [0x0A, 0x12]) ∧
    encode Config.default .rdData = some (.busRead 7) := by decide

theorem test_witness_DecodeThenEncode :
    decodeWire Config.default (.command 0x1000000000008D00) = .ok (.init .opt8Hz .opt14bit true 0x0D 0) ∧
    decodeWire Config.default (.busWrite [0x0A, 0x0F]) = .ok .wrCtrlFuse ∧
    decodeWire Config.default (.busRead 1) = .ok .rdStatus := by decide

theorem test_witness_StepRunsDecodedInstruction :
    (ready.phase.isIdle = true ∧ decodeCommand 0x2000000000000000 = .ok .sample ∧
      { ready with host := [.cmd 0x2000000000000000] }.host = [.cmd 0x2000000000000000]) ∧
    ((busy .iFuse []).microOp = some .wrCtrlFuse ∧ quiet (busy .iFuse []).host = true) ∧
    ({ busy .sStRd [] with host := [.pause] }.microOp = some .rdStatus ∧
      { busy .sStRd [] with host := [.pause] }.host = [.pause]) := by decide

theorem test_witness_ResetFromAnyPhase : { busy .iCalRd [] with host := [.reset] }.host = [.reset] := by decide

theorem test_witness_IdleBlockWaits :
    (State.reset.phase.isIdle = true ∧ State.reset.host = []) ∧
    (ready.phase.isIdle = true ∧ { ready with host := [.pause] }.host = [.pause]) := by decide

theorem test_witness_InitAccepted :
    (State.reset.phase = .unconf ∧ (false = true ∨ (0 : DevAddr) = 0)) ∧
    (ready.phase = .ready ∧ (true = true ∨ (0x7F : DevAddr) = 0)) := by decide

theorem test_witness_IllFormedInitRefused : State.reset.phase.isIdle = true ∧ (0x0D : DevAddr) ≠ 0 := by decide

theorem test_witness_IllegalWordRefused :
    ready.phase = .ready ∧ { ready with host := [.cmd 0x2000000000000001] }.host = [.cmd 0x2000000000000001] ∧
    decodeCommand 0x2000000000000001 = .error .sampleReservedBits ∧ State.reset.phase = .unconf := by decide

theorem test_witness_SampleAccepted : ready.phase.isIdle = true ∧ ready.cfgValid = true := by decide

theorem test_witness_DecodeCompletes :
    ready.phase.isIdle = true ∧ ready.cfgValid = true ∧
    sampleDecode ⟨0, 0, 0, 0, 0, 0, 0x08⟩ ready.sens.val ready.asa.val = none ∧
    (sampleDecode numbers ready.sens.val ready.asa.val).isSome = true := by decide

theorem test_witness_RefusedWithoutConfiguration :
    State.reset.phase.isIdle = true ∧ State.reset.cfgValid = false := by decide

theorem test_witness_CommandsWaitWhileBusy :
    (busy .iOpen []).phase.isIdle = false ∧
    phaseAfter (step { busy .iOpen [byteDraw 0] with host := [.cmd 0x2000000000000000] }) = some .iPd1 := by decide

theorem test_witness_OpenCompletes :
    (busy .iOpen [.ok numbers]).phase = .iOpen ∧ (busy .iOpen [.ok numbers]).answers = [.ok numbers] := by decide

theorem test_witness_ControlWritesComplete :
    (∀ p ∈ [Phase.iPd1, .iFuse, .iPd2, .iMode], (busy p [.ok numbers]).answers = [.ok numbers] ∧
      (busy p [.ok numbers]).phase = p) := by decide

theorem test_witness_RegisterSelectsComplete :
    (∀ p ∈ [Phase.iCalSel, .sStSel, .sDSel], (busy p [.ok numbers]).answers = [.ok numbers] ∧
      (busy p [.ok numbers]).phase = p) := by decide

theorem test_witness_CalibrationReadCompletes :
    (busy .iCalRd [.ok numbers]).phase = .iCalRd ∧ (busy .iCalRd [.ok numbers]).answers = [.ok numbers] := by decide

theorem test_witness_StatusReadReady :
    (busy .sStRd [byteDraw 0xFF]).phase = .sStRd ∧
    (busy .sStRd [byteDraw 0xFF]).answers = [.ok ⟨0xFF, 0, 0, 0, 0, 0, 0⟩] ∧ (0xFF : Byte).toNat % 2 = 1 := by decide

theorem test_witness_StatusReadNotReady :
    (busy .sStRd [byteDraw 0xFE]).phase = .sStRd ∧
    (busy .sStRd [byteDraw 0xFE]).answers = [.ok ⟨0xFE, 0, 0, 0, 0, 0, 0⟩] ∧ (0xFE : Byte).toNat % 2 = 0 := by decide

theorem test_witness_DataReadCompletes :
    (busy .sDRd [.ok numbers]).phase = .sDRd ∧ (busy .sDRd [.ok numbers]).answers = [.ok numbers] ∧
    (sampleDecode numbers (busy .sDRd []).sens.val (busy .sDRd []).asa.val).isSome = true ∧
    sampleDecode ⟨0, 0, 0, 0, 0, 0, 0xFF⟩ (busy .sDRd []).sens.val (busy .sDRd []).asa.val = none := by decide

theorem test_witness_DelaysComplete :
    (busy .iWait1 []).phase = .iWait1 ∧ (busy .iWait2 []).phase = .iWait2 ∧ (busy .iWait3 []).phase = .iWait3 := by decide

theorem test_witness_LastDelayCompletesInit : (busy .iWait4 []).phase = .iWait4 := by decide

theorem test_witness_BusErrorAbortsInit :
    (busy .iCalRd [.err 0x44]).phase.inInit = true ∧ (busy .iCalRd [.err 0x44]).microOp = some .rdCal ∧
    failedEvent .rdCal 0x44 (busy .iCalRd [.err 0x44]) = some (.busRead 3 (.err 0x44)) ∧
    (busy .iCalRd [.err 0x44]).answers = [.err 0x44] := by decide

theorem test_witness_BusErrorEndsSample :
    (busy .sDRd [.err 0x79]).phase.inSample = true ∧ (busy .sDRd [.err 0x79]).microOp = some .rdData ∧
    failedEvent .rdData 0x79 (busy .sDRd [.err 0x79]) = some (.busRead 7 (.err 0x79)) ∧
    (busy .sDRd [.err 0x79]).answers = [.err 0x79] := by decide

theorem test_witness_ErrorCauseIsOpaque :
    (busy .iFuse []).microOp = some .wrCtrlFuse ∧
    failedEvent .wrCtrlFuse 0x00 (busy .iFuse []) = some (.busWrite [0x0A, 0x0F] (.err 0x00)) ∧
    failedEvent .wrCtrlFuse 0xFF (busy .iFuse []) = some (.busWrite [0x0A, 0x0F] (.err 0xFF)) := by decide

theorem test_witness_OperationsBlockWithoutAnswer :
    (busy .iOpen []).microOp = some .busOpen ∧
    failedEvent .busOpen 0 (busy .iOpen []) = some (.busOpen 3 0x0E (.err 0)) ∧ (busy .iOpen []).answers = [] := by decide

theorem test_witness_MicroOpsOnlyWhereIssued :
    Instr.busOpen ≠ .sample ∧ (busy .iOpen []).microOp = some .busOpen ∧ ready.microOp ≠ some .busOpen := by decide

theorem test_witness_SaturationIsAbsence :
    (0x08 : Byte) &&& 0x08 ≠ 0 ∧ (0xFF : Byte) &&& 0x08 ≠ 0 ∧ (0xF7 : Byte) &&& 0x08 = 0 ∧ (0x00 : Byte) &&& 0x08 = 0 := by
  decide

theorem test_witness_DecodeMatchesRationalFormula :
    sampleDecode numbers .opt14bit ⟨128, 128, 128⟩ =
      some ⟨⟨100, 200, 300⟩, ⟨0x001DFB000, 0x003BF6000, 0x0059F1000⟩, false⟩ := by decide

theorem test_witness_CalibrationLaws : (0x8001 : BitVec 16).toInt = -(0x7FFF : BitVec 16).toInt := by decide

theorem test_witness_DecodeIgnoresUnnamedBits : (0x00 : Byte) &&& 0x08 = 0xF7 &&& 0x08 := by decide

/-- A state in the middle of an INIT meets every invariant, and steps. -/
def midInit : State :=
  { busy .iFuse [byteDraw 0] with
    trace := [.reset, .cmd 0x1000000000038E03, .busOpen 3 0x0E .ok, .busWrite [0x0A, 0x00] .ok, .delay 1000] }

/-- A state in the middle of a SAMPLE meets every invariant, and steps. -/
def midSample : State :=
  { busy .sDSel [byteDraw 0] with
    trace := ready.trace ++ [.cmd 0x2000000000000000, .busWrite [0x02] .ok, .busRead 1 (.ok [0x03])] }

theorem test_witness_invariants_ready : ready.Inv ∧ phaseAfter (step ready) = some .ready := by decide

theorem test_witness_invariants_init : midInit.Inv ∧ phaseAfter (step midInit) = some .iWait2 := by decide

theorem test_witness_invariants_sample : midSample.Inv ∧ phaseAfter (step midSample) = some .sDRd := by decide

theorem test_witness_PhaseMatchesCfgKept : midInit.PhaseMatchesCfg ∧ ∃ t, step midInit = .next t :=
  ⟨by decide, _, rfl⟩

theorem test_witness_HeldRegistersKept :
    midSample.PhaseMatchesCfg ∧ midSample.HoldsByPhase ∧ ∃ t, step midSample = .next t :=
  ⟨by decide, by decide, _, rfl⟩

theorem test_witness_HandleKept : midInit.PhaseMatchesCfg ∧ midInit.HandleByPhase ∧ ∃ t, step midInit = .next t :=
  ⟨by decide, by decide, _, rfl⟩

theorem test_witness_TimerKept : midInit.TimerByPhase ∧ ∃ t, step midInit = .next t := ⟨by decide, _, rfl⟩

theorem test_witness_ModeMatchesSensKept :
    midSample.PhaseMatchesCfg ∧ midSample.ModeMatchesSens ∧ midSample.phase.configured = true ∧
    ∃ t, step midSample = .next t := ⟨by decide, by decide, by decide, _, rfl⟩

theorem test_witness_OneResponsePerCommandKept : midSample.ResponsesBalance ∧ ∃ t, step midSample = .next t :=
  ⟨by decide, _, rfl⟩

theorem test_witness_ProtocolOrderKept : midInit.FollowsScript ∧ ∃ t, step midInit = .next t := ⟨by decide, _, rfl⟩

theorem test_witness_OnlyKnownFramesKept : midSample.KnownEvents ∧ ∃ t, step midSample = .next t := ⟨by decide, _, rfl⟩

theorem test_witness_TransportOnlyWithHandle :
    midSample.HandleByPhase ∧ news midSample (step midSample) = some [.busWrite [0x03] .ok] ∧
    (Event.busWrite [0x03] .ok).isTransport = true ∧ (∀ bus dev a, Event.busWrite [0x03] .ok ≠ .busOpen bus dev a) ∧
    ∃ t, step midSample = .next t :=
  ⟨by decide, by decide, by decide, fun _ _ _ h => (by cases h), _, rfl⟩


theorem test_witness_OnlyInitWritesControlRegister :
    midSample.phase.inInit = false ∧ (∃ t, step midSample = .next t) ∧ ∀ rest, midSample.host ≠ .reset :: rest :=
  ⟨by decide, ⟨_, rfl⟩, fun _ h => (by cases h)⟩

theorem test_witness_HistoryGrowsParametersStay :
    (∃ t, step midInit = .next t) ∧ ∀ rest, midInit.host ≠ .reset :: rest := ⟨⟨_, rfl⟩, fun _ h => (by cases h)⟩

/-- READY with one word offered and the coming answers. -/
def offered (w : Word) (answers : List Answer) : State := { ready with host := [.cmd w], answers := answers }

/-- Within the epoch, at an accepted INIT, and at a Reset. -/
theorem test_witness_ConfigurationImmutableInEpoch :
    (midSample.phase.configured = true ∧ ∃ t, step midSample = .next t) ∧
    ((offered 0x1000000000030001 []).phase.configured = true ∧
      decodeCommand 0x1000000000030001 = .ok (.init .opt100Hz .opt16bit false 0 1) ∧
      ∃ t, step (offered 0x1000000000030001 []) = .next t ∧ t.phase = .iOpen) ∧
    { midSample with host := [.reset] }.phase.configured = true ∧
    ∃ t, step { midSample with host := [.reset] } = .next t ∧ t.phase = .unconf :=
  ⟨⟨by decide, _, rfl⟩, ⟨by decide, by decide, _, rfl, rfl⟩, by decide, _, rfl, rfl⟩

theorem test_witness_InitRunsToReady :
    let s := offered 0x1000000000030001 [.ok numbers, .ok numbers, .ok numbers, .ok numbers,
      .ok ⟨0x80, 0x80, 0x80, 0, 0, 0, 0⟩, .ok numbers, .ok numbers]
    s.phase.isIdle = true ∧ s.host = [.cmd 0x1000000000030001] ∧ quiet [] = true ∧
    decodeCommand 0x1000000000030001 = .ok (.init .opt100Hz .opt16bit false 0 1) ∧
    s.answers = [.ok numbers, .ok numbers, .ok numbers, .ok numbers,
      .ok ⟨0x80, 0x80, 0x80, 0, 0, 0, 0⟩, .ok numbers, .ok numbers] := by decide

theorem test_witness_SampleRunsToResponse :
    let s := offered 0x2000000000000000 [.ok numbers, byteDraw 0x01, .ok numbers, .ok numbers]
    let u := offered 0x2000000000000000 [.ok numbers, byteDraw 0x02, .ok numbers, .ok numbers]
    s.phase = .ready ∧ s.cfgValid = true ∧ s.host = [.cmd 0x2000000000000000] ∧ quiet [] = true ∧
    s.answers = [.ok numbers, .ok ⟨0x01, 0, 0, 0, 0, 0, 0⟩, .ok numbers, .ok numbers] ∧ (0x01 : Byte).toNat % 2 = 1 ∧
    u.answers = [.ok numbers, .ok ⟨0x02, 0, 0, 0, 0, 0, 0⟩, .ok numbers, .ok numbers] ∧ (0x02 : Byte).toNat % 2 = 0 := by
  decide

theorem test_witness_ExplicitDefaultAddress : State.reset.phase.isIdle = true ∧ ready.phase.isIdle = true := by decide

end Sys2Proof.Tests
end

/-! PROOFS. What the effect of a phase does to each field of the state, and what the bus error and a refusal leave, said
once for the invariants. -/

namespace Sys2Proof.Machine

-- Phases.

/-- Where `cfg_valid` tells the phases of R23 apart, an idle block with a configuration is in READY. -/
theorem phase_ready_of_cfgValid {s : State} (hc : s.PhaseMatchesCfg) (hi : s.phase.isIdle = true)
    (hv : s.cfgValid = true) : s.phase = .ready := by
  rw [hc] at hv
  cases hp : s.phase <;> simp_all [Phase.isIdle, Phase.configured]

/-- A busy phase outside INIT is a SAMPLE phase. -/
theorem Phase.inSample_of_busy {p : Phase} (hi : p.isIdle = false) (hn : p.inInit = false) : p.inSample = true := by
  cases p <;> simp_all [Phase.isIdle, Phase.inInit, Phase.inSample]

theorem busy_of_microOp {s : State} {i : Instr} (h : s.microOp = some i) : s.phase.isIdle = false :=
  microOp_isSome_iff.mp (by simp [h])

theorem Phase.configured_of_inSample {p : Phase} (h : p.inSample = true) : p.configured = true := by
  cases p <;> simp_all [Phase.inSample, Phase.configured]

-- The effect of a phase, field by field.

/-- The successor of R152 and R182: the column "on ok", but READY after a status byte without DRDY. -/
theorem phaseEffect_phase (d : Block) (s : State) :
    (phaseEffect d s).phase = if s.phase = .sStRd ∧ drdy d.b0 = false then .ready else s.phase.onOk := by
  cases hd : drdy d.b0 <;> cases hp : s.phase <;>
    simp [phaseEffect, hp, hd, Phase.onOk, State.endSample, State.completeInit]

/-- INIT's last wait alone sets `cfg_valid` (R163). -/
theorem phaseEffect_cfgValid (d : Block) (s : State) :
    (phaseEffect d s).cfgValid = (s.cfgValid || s.phase == .iWait4) := by
  cases hd : drdy d.b0 <;> cases hp : s.phase <;> simp [phaseEffect, hp, hd, State.endSample, State.completeInit]

@[simp] theorem phaseEffect_busId (d : Block) (s : State) : (phaseEffect d s).busId = s.busId := by
  cases hd : drdy d.b0 <;> cases hp : s.phase <;> simp [phaseEffect, hp, hd, State.endSample, State.completeInit]

@[simp] theorem phaseEffect_devAddr (d : Block) (s : State) : (phaseEffect d s).devAddr = s.devAddr := by
  cases hd : drdy d.b0 <;> cases hp : s.phase <;> simp [phaseEffect, hp, hd, State.endSample, State.completeInit]

@[simp] theorem phaseEffect_sens (d : Block) (s : State) : (phaseEffect d s).sens = s.sens := by
  cases hd : drdy d.b0 <;> cases hp : s.phase <;> simp [phaseEffect, hp, hd, State.endSample, State.completeInit]

/-- INIT's last wait drops `rate_tmp` (R163). -/
theorem phaseEffect_rateTmp_held (d : Block) (s : State) :
    (phaseEffect d s).rateTmp.held = (s.rateTmp.held && s.phase != .iWait4) := by
  cases hd : drdy d.b0 <;> cases hp : s.phase <;> simp [phaseEffect, hp, hd, State.endSample, State.completeInit]

/-- The calibration read writes `asa` (R156). -/
theorem phaseEffect_asa_held (d : Block) (s : State) :
    (phaseEffect d s).asa.held = (s.asa.held || s.phase == .iCalRd) := by
  cases hd : drdy d.b0 <;> cases hp : s.phase <;> simp [phaseEffect, hp, hd, State.endSample, State.completeInit]

/-- `st1` holds a value after a status byte with DRDY, and none after the end of a SAMPLE (R184, R185, R189). -/
theorem phaseEffect_st1_held (d : Block) (s : State) :
    (phaseEffect d s).st1.held = if s.phase = .sStRd then drdy d.b0 else s.st1.held && s.phase != .sDRd := by
  cases hd : drdy d.b0 <;> cases hp : s.phase <;> simp [phaseEffect, hp, hd, State.endSample, State.completeInit]

/-- No effect leaves a value in `blk`: the data read drops it in its own step (R189). -/
theorem phaseEffect_blk_held {d : Block} {s : State} (h : s.blk.held = false) : (phaseEffect d s).blk.held = false := by
  cases hd : drdy d.b0 <;> cases hp : s.phase <;> simp [phaseEffect, hp, hd, h, State.endSample, State.completeInit]

/-- In `I_MODE` the control register is written with the mode byte of the registers (R160). -/
theorem phaseEffect_lastCtrl_iMode (d : Block) {s : State} (h : s.phase = .iMode) :
    lastCtrl (phaseEffect d s).trace = some (modeByte s.sens.val s.rateTmp.val) := by
  simp [phaseEffect, h]

/-- From `I_WAIT4` on the control register is not written. -/
theorem phaseEffect_lastCtrl_configured (d : Block) {s : State} (h : s.phase = .iWait4 ∨ s.phase.configured = true) :
    lastCtrl (phaseEffect d s).trace = lastCtrl s.trace := by
  cases hd : drdy d.b0 <;> cases hp : s.phase <;>
    simp_all [phaseEffect, Phase.configured, State.endSample, State.completeInit]

/-- No effect takes a command word. -/
theorem phaseEffect_countP_isCmd (d : Block) (s : State) :
    (phaseEffect d s).trace.countP Event.isCmd = s.trace.countP Event.isCmd := by
  cases hd : drdy d.b0 <;> cases hp : s.phase <;>
    simp [phaseEffect, hp, hd, State.endSample, State.completeInit, Event.isCmd]

/-- The effect of a busy phase gives one response if it ends the command, and none otherwise. -/
theorem phaseEffect_countP_isRsp (d : Block) {s : State} (h : s.phase.isIdle = false) :
    (phaseEffect d s).trace.countP Event.isRsp =
      s.trace.countP Event.isRsp + if (phaseEffect d s).phase.isIdle then 1 else 0 := by
  cases hd : drdy d.b0 <;> cases hp : s.phase <;>
    simp_all [phaseEffect, State.endSample, State.completeInit, Event.isRsp, Phase.isIdle]

/-- The response channel is written by the end of a command only. -/
theorem phaseEffect_rsp_of_busy {d : Block} {s : State} (h : (phaseEffect d s).phase.isIdle = false) :
    (phaseEffect d s).rsp = s.rsp := by
  cases hd : drdy d.b0 <;> cases hp : s.phase <;>
    simp_all [phaseEffect, State.endSample, State.completeInit, Phase.isIdle]

-- Events, the bus error and refusals.

@[simp] theorem isCmd_cmd (w : Word) : (Event.cmd w).isCmd = true := rfl
@[simp] theorem isCmd_rsp (r : Response) : (Event.rsp r).isCmd = false := rfl
@[simp] theorem isRsp_cmd (w : Word) : (Event.cmd w).isRsp = false := rfl
@[simp] theorem isRsp_rsp (r : Response) : (Event.rsp r).isRsp = true := rfl

/-- The event of a failed operation is one of the transport's. -/
theorem failedEvent_isTransport {i : Instr} {e : BusErr} {s : State} {ev : Event} (h : failedEvent i e s = some ev) :
    ev.isTransport = true := by
  cases i <;> simp [failedEvent] at h <;> subst h <;> rfl

theorem isCmd_of_isTransport {ev : Event} (h : ev.isTransport = true) : ev.isCmd = false := by
  cases ev <;> simp_all [Event.isTransport, Event.isCmd]

theorem isRsp_of_isTransport {ev : Event} (h : ev.isTransport = true) : ev.isRsp = false := by
  cases ev <;> simp_all [Event.isTransport, Event.isRsp]

theorem busError_phase (e : BusErr) (s : State) : (s.busError e).phase = if s.phase.inInit then .unconf else .ready := by
  cases h : s.phase.inInit
  · simp [busError_notInit e h, State.endSample]
  · simp [busError_inInit e h]

/-- The bus error ends the command (R164, R190). -/
@[simp] theorem busError_isIdle (e : BusErr) (s : State) : (s.busError e).phase.isIdle = true := by
  rw [busError_phase]
  split <;> rfl

@[simp] theorem refuse_phase (s : State) (w : Word) (r : Response) : (s.refuse w r).phase = s.phase := rfl

@[simp] theorem refuse_trace (s : State) (w : Word) (r : Response) :
    (s.refuse w r).trace = s.trace ++ [.cmd w, .rsp r] := by
  simp [State.refuse]

end Sys2Proof.Machine

/-! PROOFS. The invariants of 10_state that every step keeps, each by the changes that make up a step (`Keeps`). -/

namespace Sys2Proof.Machine

-- 10_state R23: cfg_valid and the phase.

/-- The bus error clears `cfg_valid` in INIT and leaves it in SAMPLE. -/
theorem busError_phaseMatchesCfg {s : State} (e : BusErr) (busy : s.phase.isIdle = false) (hc : s.PhaseMatchesCfg) :
    (s.busError e).PhaseMatchesCfg := by
  cases hi : s.phase.inInit
  · rw [busError_notInit e hi]
    exact hc.trans (Phase.configured_of_inSample (Phase.inSample_of_busy busy hi))
  · rw [busError_inInit e hi]
    rfl

/-- `cfg_valid` is set where INIT enters READY, and else the phases before and after agree. -/
theorem phaseEffect_phaseMatchesCfg (d : Block) {s : State} (hc : s.PhaseMatchesCfg) :
    (phaseEffect d s).PhaseMatchesCfg := by
  show _ = _
  rw [phaseEffect_cfgValid, phaseEffect_phase, hc]
  cases drdy d.b0 <;> cases s.phase <;> decide

theorem keeps_phaseMatchesCfg : Keeps State.PhaseMatchesCfg where
  outside _ _ _ hc := hc
  reset _ _ := rfl
  refuse _ _ _ _ hc := hc
  init _ _ _ _ _ _ _ _ := rfl
  sample _ _ hv _ := hv
  error _ _ _ e hm _ hc := busError_phaseMatchesCfg e (busy_of_microOp hm) hc
  effect _ d _ hc := phaseEffect_phaseMatchesCfg d hc

-- 10_state R46: which registers hold a value in which phase.

/-- The bus error drops the registers of INIT or the transients of SAMPLE, and the phase is the one without them. -/
theorem busError_holdsByPhase {s : State} (e : BusErr) (busy : s.phase.isIdle = false) (h : s.HoldsByPhase) :
    (s.busError e).HoldsByPhase := by
  cases hi : s.phase.inInit
  · have hs := Phase.inSample_of_busy busy hi
    rw [busError_notInit e hi]
    cases hp : s.phase <;> simp_all [State.HoldsByPhase, State.endSample, Phase.inSample, Phase.inInit,
      Phase.configHeld, Phase.trimsHeld, Phase.statusHeld]
  · rw [busError_inInit e hi]
    cases hp : s.phase <;> simp_all [State.HoldsByPhase, Phase.inInit, Phase.configHeld, Phase.trimsHeld,
      Phase.statusHeld]

/-- Each register is written or dropped by the effect that enters the first phase with or without it. -/
theorem phaseEffect_holdsByPhase (d : Block) {s : State} (h : s.HoldsByPhase) : (phaseEffect d s).HoldsByPhase := by
  obtain ⟨hbus, hdev, hsens, hrate, hasa, hst, hblk⟩ := h
  simp only [State.HoldsByPhase, phaseEffect_phase, phaseEffect_busId, phaseEffect_devAddr, phaseEffect_sens,
    phaseEffect_rateTmp_held, phaseEffect_asa_held, phaseEffect_st1_held, phaseEffect_blk_held hblk,
    hbus, hdev, hsens, hrate, hasa, hst]
  cases drdy d.b0 <;> cases s.phase <;> decide

/-- INIT writes its operands and drops `asa`; no idle phase has a value in `st1` (R151). -/
theorem beginInit_holdsByPhase {s : State} (w : Word) (rate : Rate) (sens : Sens) (dev : DevAddr) (bus : Byte)
    (idle : s.phase.isIdle = true) (h : s.HoldsByPhase) :
    ((s.accept w).beginInit rate sens dev bus).HoldsByPhase := by
  obtain ⟨-, -, -, -, -, hst, hblk⟩ := h
  have : s.st1.held = false := by
    rw [hst]
    cases hp : s.phase <;> simp_all [Phase.isIdle, Phase.statusHeld]
  exact ⟨rfl, rfl, rfl, rfl, rfl, this, hblk⟩

/-- READY and the first SAMPLE phase hold the same registers. -/
theorem enterSample_holdsByPhase {s : State} (w : Word) (hp : s.phase = .ready) (h : s.HoldsByPhase) :
    ((s.accept w).enter .sStSel).HoldsByPhase := by
  simp only [State.HoldsByPhase, hp] at h
  exact h

theorem keeps_holdsByPhase : Keeps (fun s => s.PhaseMatchesCfg ∧ s.HoldsByPhase) where
  outside _ _ _ h := h
  reset _ _ := ⟨rfl, rfl, rfl, rfl, rfl, rfl, rfl, rfl⟩
  refuse _ _ _ _ h := h
  init _ w rate sens dev bus hp h := ⟨rfl, beginInit_holdsByPhase w rate sens dev bus hp h.2⟩
  sample _ hp hv h := ⟨hv, enterSample_holdsByPhase _ (phase_ready_of_cfgValid h.1 hp hv) h.2⟩
  error _ _ _ e hm _ h :=
    ⟨busError_phaseMatchesCfg e (busy_of_microOp hm) h.1, busError_holdsByPhase e (busy_of_microOp hm) h.2⟩
  effect _ d _ h := ⟨phaseEffect_phaseMatchesCfg d h.1, phaseEffect_holdsByPhase d h.2⟩

-- 10_state R38, 41_init R165 (b): the mode byte of the last control write.

/-- A change that keeps `sens` and the last control write, and enters no phase after the mode byte from outside, keeps
the invariant. -/
theorem State.ModeMatchesSens.congr {s t : State} (h : s.ModeMatchesSens) (hs : t.sens = s.sens)
    (hl : lastCtrl t.trace = lastCtrl s.trace)
    (hp : t.phase = .iWait4 ∨ t.phase.configured = true → s.phase = .iWait4 ∨ s.phase.configured = true) :
    t.ModeMatchesSens := by
  rw [State.ModeMatchesSens, hs, hl]
  exact fun ht => h (hp ht)

/-- The phases after the mode byte are entered from each other, or from `I_MODE`. -/
theorem Phase.modeWritten_of_onOk {p : Phase} (h : p.onOk = .iWait4 ∨ p.onOk.configured = true) :
    p = .iMode ∨ p = .iWait4 ∨ p.configured = true := by
  cases p <;> simp_all [Phase.onOk, Phase.configured]

theorem phaseEffect_modeMatchesSens (d : Block) {s : State} (h : s.ModeMatchesSens) :
    (phaseEffect d s).ModeMatchesSens := by
  intro hp
  have before : s.phase = .iMode ∨ s.phase = .iWait4 ∨ s.phase.configured = true := by
    rw [phaseEffect_phase] at hp
    split at hp
    case isTrue hr => exact .inr (.inr (by rw [hr.1]; rfl))
    case isFalse => exact Phase.modeWritten_of_onOk hp
  rcases before with hm | hc
  · rw [phaseEffect_lastCtrl_iMode d hm, phaseEffect_sens]
    cases s.rateTmp.val
    · exact .inl rfl
    · exact .inr rfl
  · exact h.congr (phaseEffect_sens d s) (phaseEffect_lastCtrl_configured d hc) (fun _ => hc) hp

/-- A failed operation writes nothing, and a SAMPLE keeps `sens`; INIT's error ends in UNCONF. -/
theorem busError_modeMatchesSens {s : State} {ev : Event} (e : BusErr) (busy : s.phase.isIdle = false)
    (hev : ev.ctrlWritten = none) (h : s.ModeMatchesSens) : ((s.record ev).busError e).ModeMatchesSens := by
  cases hi : s.phase.inInit
  · have hs := Phase.configured_of_inSample (Phase.inSample_of_busy busy hi)
    rw [busError_notInit (s := s.record ev) e hi]
    exact h.congr rfl (by simp [State.endSample, hev]) fun _ => .inr hs
  · rw [busError_inInit (s := s.record ev) e hi]
    simp [State.ModeMatchesSens, Phase.configured]

theorem keeps_modeMatchesSens : Keeps (fun s => s.PhaseMatchesCfg ∧ s.ModeMatchesSens) where
  outside _ _ _ h := h
  reset _ _ := ⟨rfl, by simp [State.ModeMatchesSens, State.takeReset, State.reset, Phase.configured]⟩
  refuse _ _ _ _ h := ⟨h.1, h.2.congr rfl (by simp) id⟩
  init _ _ _ _ _ _ _ _ := ⟨rfl, by simp [State.ModeMatchesSens, State.beginInit, Phase.configured]⟩
  sample _ _ hv h := ⟨hv, h.2.congr rfl (by simp) fun _ => .inr (h.1 ▸ hv)⟩
  error _ _ _ e hm hf h := ⟨busError_phaseMatchesCfg e (busy_of_microOp hm) h.1,
    busError_modeMatchesSens e (busy_of_microOp hm) (failedEvent_ctrlWritten hf) h.2⟩
  effect _ d _ h := ⟨phaseEffect_phaseMatchesCfg d h.1, phaseEffect_modeMatchesSens d h.2⟩

-- 10_state R43: one response per command.

/-- In an idle phase, a command taken and answered leaves the balance. -/
theorem refuse_responsesBalance {s : State} (w : Word) (r : Response) (idle : s.phase.isIdle = true)
    (h : s.ResponsesBalance) : (s.refuse w r).ResponsesBalance := by
  obtain ⟨hcount, -⟩ := h
  refine ⟨?_, fun busy => absurd idle (by simpa using busy)⟩
  simpa [List.countP_cons, idle] using hcount

/-- A command taken, and a busy phase entered with the response channel free: one response is owed. -/
theorem accept_responsesBalance {s t : State} {w : Word} (idle : s.phase.isIdle = true) (h : s.ResponsesBalance)
    (htrace : t.trace = s.trace ++ [.cmd w]) (hrsp : t.rsp = none) (busy : t.phase.isIdle = false) :
    t.ResponsesBalance := by
  obtain ⟨hcount, -⟩ := h
  refine ⟨?_, fun _ => hrsp⟩
  simpa [htrace, busy, idle] using hcount

/-- The command of a failed operation is answered with the bus error, in an idle phase. -/
theorem busError_responsesBalance {s : State} {ev : Event} (e : BusErr) (busy : s.phase.isIdle = false)
    (hev : ev.isTransport = true) (h : s.ResponsesBalance) : ((s.record ev).busError e).ResponsesBalance := by
  obtain ⟨hcount, -⟩ := h
  refine ⟨?_, by simp⟩
  simp [(busError_trace e _).2, List.countP_cons, isCmd_of_isTransport hev, isRsp_of_isTransport hev, hcount, busy]

/-- The effect of a phase answers exactly when it leads to an idle phase. -/
theorem phaseEffect_responsesBalance (d : Block) {s : State} (busy : s.phase.isIdle = false)
    (h : s.ResponsesBalance) : (phaseEffect d s).ResponsesBalance := by
  obtain ⟨hcount, hrsp⟩ := h
  refine ⟨?_, fun hb => (phaseEffect_rsp_of_busy hb).trans (hrsp busy)⟩
  rw [phaseEffect_countP_isCmd, phaseEffect_countP_isRsp d busy, hcount, busy]
  cases (phaseEffect d s).phase.isIdle <;> simp

theorem keeps_responsesBalance : Keeps State.ResponsesBalance where
  outside _ _ _ h := h
  reset _ _ := ⟨rfl, fun _ => rfl⟩
  refuse _ w r idle h := refuse_responsesBalance w r idle h
  init _ _ _ _ _ _ idle h := accept_responsesBalance idle h rfl rfl rfl
  sample _ idle _ h := accept_responsesBalance idle h rfl rfl rfl
  error _ _ _ e hm hf h := busError_responsesBalance e (busy_of_microOp hm) (failedEvent_isTransport hf) h
  effect _ d busy h := phaseEffect_responsesBalance d busy h

end Sys2Proof.Machine

/-! PROOFS. 10_state R44: but for a Reset a step appends to the history, and no step writes the parameters. -/

namespace Sys2Proof.Machine

/-- The parameters of `t` are those of `s`, and its history is that of `s` gone on. -/
def Extends (s t : State) : Prop := t.config = s.config ∧ ∃ new, t.trace = s.trace ++ new

theorem Extends.refl (s : State) : Extends s s := ⟨rfl, [], by simp⟩

theorem record_extends (s : State) (ev : Event) : Extends s (s.record ev) := ⟨rfl, [ev], rfl⟩

theorem Extends.trans {s t u : State} (h : Extends s t) (k : Extends t u) : Extends s u := by
  obtain ⟨hc, a, ha⟩ := h
  obtain ⟨kc, b, kb⟩ := k
  exact ⟨kc.trans hc, a ++ b, by rw [kb, ha, List.append_assoc]⟩

theorem busError_extends (s : State) (e : BusErr) : Extends s (s.busError e) :=
  ⟨(busError_trace e s).1, _, (busError_trace e s).2⟩

theorem refuse_extends (s : State) (w : Word) (r : Response) : Extends s (s.refuse w r) :=
  ⟨rfl, _, refuse_trace s w r⟩

theorem exec_command_extends {w : Word} {i : Instr} {s t : State} (hd : decodeCommand w = .ok i)
    (idle : s.phase.isIdle = true) (h : exec i s = .next t) : Extends s t := by
  rcases exec_command_cases hd idle h with ⟨_, _, _, _, _, -, rfl⟩ | ⟨v, r, rfl⟩ | ⟨-, -, rfl⟩
  · exact ⟨rfl, _, rfl⟩
  · exact refuse_extends s v r
  · exact ⟨rfl, _, rfl⟩

theorem exec_microOp_extends {i : Instr} {s t : State} (hm : s.microOp = some i) (h : exec i s = .next t) :
    Extends s t := by
  rcases exec_microOp_cases hm h with ⟨-, rfl⟩ | ⟨e, rest, ev, -, -, rfl⟩ | ⟨d, rest, -, rfl⟩ | ⟨-, ht⟩
  · exact .refl _
  · exact (record_extends s ev).trans (busError_extends _ e)
  · exact phaseEffect_trace d (s.withAnswers rest)
  · rw [ht ⟨0, 0, 0, 0, 0, 0, 0⟩]
    exact phaseEffect_trace _ s

/-- A step is a Reset, which keeps the parameters, or goes on with the history. -/
theorem step_reset_or_extends {s t : State} (h : step s = .next t) :
    (∃ rest, s.host = .reset :: rest ∧ t.config = s.config) ∨ Extends s t := by
  rcases step_cases h with ⟨rest, hh, rfl⟩ | ⟨_, -, -, rfl⟩ | ⟨w, _, _, -, -, -, rfl⟩ | ⟨_, moves, _, idle, -, hd, hx⟩ |
      ⟨moves, _, hm, -, hx⟩
  · exact .inl ⟨rest, hh, rfl⟩
  · exact .inr (.refl s)
  · exact .inr (refuse_extends s w _)
  · exact .inr (exec_command_extends (s := s.withHost moves) hd idle hx)
  · exact .inr (exec_microOp_extends (s := s.withHost moves) hm hx)

end Sys2Proof.Machine

/-! PROOFS. The statements of 10_state settled. -/

namespace Sys2Proof.Machine

/-- Settles O41: the changes that make up a step keep it. -/
theorem phaseMatchesCfgKept : Obligations.PhaseMatchesCfgKept :=
  fun _ _ hs h => keeps_phaseMatchesCfg.step hs h

/-- Settles O42: kept together with R23, by which a SAMPLE starts in READY. -/
theorem heldRegistersKept : Obligations.HeldRegistersKept :=
  fun _ _ hc hs h => (keeps_holdsByPhase.step ⟨hc, hs⟩ h).2

/-- Settles O45: kept together with R23; `I_MODE` writes the mode byte of the current `sens`, and nothing after it
writes the control register. -/
theorem modeMatchesSensKept : Obligations.ModeMatchesSensKept :=
  fun _ _ hc hs h => (keeps_modeMatchesSens.step ⟨hc, hs⟩ h).2

/-- Settles O46: the changes that make up a step keep it. -/
theorem oneResponsePerCommandKept : Obligations.OneResponsePerCommandKept :=
  fun _ _ hs h => keeps_responsesBalance.step hs h

/-- Settles O53, by the cases of a step. -/
theorem historyGrowsParametersStay : Obligations.HistoryGrowsParametersStay := by
  intro s t h
  rcases step_reset_or_extends h with ⟨rest, hh, hc⟩ | ⟨hc, hgrow⟩
  · exact ⟨hc, fun hno => absurd hh (hno rest)⟩
  · exact ⟨hc, fun _ => hgrow⟩

/-- Settles O11: read off `State.reset`; with no move and no micro-operation the step waits. -/
theorem stateAfterReset : Obligations.StateAfterReset :=
  ⟨rfl, rfl, rfl, rfl, rfl, rfl, rfl, rfl, rfl, rfl, rfl, rfl, rfl⟩

/-- Settles O49: a closed fact about `State.reset`. -/
theorem invariantsAfterReset : Obligations.InvariantsAfterReset := by
  unfold Obligations.InvariantsAfterReset
  decide

end Sys2Proof.Machine

/-! PROOFS. The transport of 20_memory: the handle, the operations that a step issues, and their answers. -/

namespace Sys2Proof.Machine

-- 20_memory R61, R66: the handle.

/-- In every busy phase but `I_OPEN` a handle is held. -/
theorem Phase.handleHeld_of_busy {p : Phase} (busy : p.isIdle = false) (h : p ≠ .iOpen) : p.handleHeld = true := by
  cases p <;> simp_all [Phase.isIdle, Phase.handleHeld]

theorem Phase.handleHeld_of_inSample {p : Phase} (h : p.inSample = true) : p.handleHeld = true := by
  cases p <;> simp_all [Phase.inSample, Phase.handleHeld]

/-- A change that keeps the handle and its registers keeps the invariant between phases that agree on it. -/
theorem State.HandleByPhase.congr {s t : State} (h : s.HandleByPhase) (hh : t.handle = s.handle)
    (hb : t.busId = s.busId) (hd : t.devAddr = s.devAddr) (hp : t.phase.handleHeld = s.phase.handleHeld) :
    t.HandleByPhase := by
  rw [State.HandleByPhase, hh, hb, hd, hp]
  exact h

/-- OPEN alone sets the handle, to the bus and device of the registers (R131, R153). -/
theorem phaseEffect_handle (d : Block) (s : State) :
    (phaseEffect d s).handle =
      if s.phase = .iOpen then some { bus := s.busId.val, dev := s.devAddr.val } else s.handle := by
  cases hd : drdy d.b0 <;> cases hp : s.phase <;> simp [phaseEffect, hp, hd, State.endSample, State.completeInit]

/-- Only OPEN leads from a phase without a handle to one with it. -/
theorem phaseEffect_handleHeld (d : Block) (s : State) :
    (phaseEffect d s).phase.handleHeld = (s.phase == .iOpen || s.phase.handleHeld) := by
  rw [phaseEffect_phase]
  cases drdy d.b0 <;> cases s.phase <;> decide

theorem phaseEffect_handleByPhase (d : Block) {s : State} (h : s.HandleByPhase) : (phaseEffect d s).HandleByPhase := by
  by_cases hp : s.phase = .iOpen
  · simp [State.HandleByPhase, phaseEffect_handle, phaseEffect_handleHeld, hp]
  · exact h.congr (by simp [phaseEffect_handle, hp]) (by simp) (by simp) (by simp [phaseEffect_handleHeld, hp])

/-- The bus error of INIT drops the handle and goes to UNCONF; that of SAMPLE keeps it and goes to READY. -/
theorem busError_handleByPhase {s : State} (e : BusErr) (busy : s.phase.isIdle = false) (h : s.HandleByPhase) :
    (s.busError e).HandleByPhase := by
  cases hi : s.phase.inInit
  · have held := Phase.handleHeld_of_inSample (Phase.inSample_of_busy busy hi)
    rw [busError_notInit e hi]
    exact h.congr rfl rfl rfl held.symm
  · rw [busError_inInit e hi]
    rfl

theorem keeps_handleByPhase : Keeps (fun s => s.PhaseMatchesCfg ∧ s.HandleByPhase) where
  outside _ _ _ h := h
  reset _ _ := ⟨rfl, rfl⟩
  refuse _ _ _ _ h := h
  init _ _ _ _ _ _ _ _ := ⟨rfl, rfl⟩
  sample _ idle hv h := ⟨hv, h.2.congr rfl rfl rfl (by simp [phase_ready_of_cfgValid h.1 idle hv, Phase.handleHeld])⟩
  error _ _ _ e hm _ h :=
    ⟨busError_phaseMatchesCfg e (busy_of_microOp hm) h.1, busError_handleByPhase e (busy_of_microOp hm) h.2⟩
  effect _ d _ h := ⟨phaseEffect_phaseMatchesCfg d h.1, phaseEffect_handleByPhase d h.2⟩

-- 20_memory R64, R65: the answers.

@[simp] theorem failedEvent_withAnswers (i : Instr) (e : BusErr) (s : State) (answers : List Answer) :
    failedEvent i e (s.withAnswers answers) = failedEvent i e s := by
  cases i <;> rfl

/-- A micro-operation that can fail is no delay. -/
theorem wait_eq_none_of_failedEvent {s : State} {i : Instr} {e : BusErr} {ev : Event} (hm : s.microOp = some i)
    (hf : failedEvent i e s = some ev) : s.phase.wait = none := by
  cases hw : s.phase.wait with
  | none => rfl
  | some d =>
    have hi : i = .delay d := Option.some.inj (hm.symm.trans (microOp_delay_iff.mpr hw))
    rw [hi] at hf
    cases hf

/-- With no answer to come, an operation that can fail can only block. -/
theorem exec_blocked {s : State} {i : Instr} {e : BusErr} {ev : Event} (hm : s.microOp = some i)
    (hf : failedEvent i e s = some ev) (ha : s.answers = []) : exec i s = .next s := by
  obtain ⟨t, ht⟩ := exec_microOp_total hm
  rcases exec_microOp_cases hm ht with ⟨-, rfl⟩ | ⟨_, _, _, he, -⟩ | ⟨_, _, hd, -⟩ | ⟨hw, -⟩
  · exact ht
  · rw [ha] at he; cases he
  · rw [ha] at hd; cases hd
  · exact absurd (wait_eq_none_of_failedEvent hm hf) hw

/-- The cause of a bus error, and the event before it, are seen in the response and the history alone. -/
theorem record_busError_eq (s : State) (ev : Event) (e c : BusErr) :
    (s.record ev).busError e =
      { s.busError c with rsp := some (.busError e), trace := s.trace ++ [ev, .rsp (.busError e)] } := by
  rw [List.append_cons]
  cases hi : s.phase.inInit
  · rw [busError_notInit (s := s.record ev) e hi, busError_notInit c hi]
    rfl
  · rw [busError_inInit (s := s.record ev) e hi, busError_inInit c hi]
    rfl

/-- What a failed operation leaves, with the cause `c` of another failure in all but the response and the history. -/
theorem exec_failed_eq {s : State} {i : Instr} {e : BusErr} {ev : Event} (rest : List Answer) (c : BusErr)
    (hm : s.microOp = some i) (hf : failedEvent i e s = some ev) :
    exec i (s.withAnswers (.err e :: rest)) =
      .next { (s.withAnswers rest).busError c with
        rsp := some (.busError e), trace := s.trace ++ [ev, .rsp (.busError e)] } := by
  rw [exec_failed (s := s.withAnswers (.err e :: rest)) hm (by simpa using hf) rfl, record_busError_eq _ _ _ c]
  rfl

-- 20_memory R66: the transport operations that a step issues.

@[simp] theorem isTransport_cmd (w : Word) : (Event.cmd w).isTransport = false := rfl
@[simp] theorem isTransport_rsp (r : Response) : (Event.rsp r).isTransport = false := rfl
@[simp] theorem isTransport_delay (m : Nat) : (Event.delay m).isTransport = false := rfl

/-- A phase that may issue the operation of `ev`: busy, no delay, and `I_OPEN` for an Open only. -/
def Phase.MayIssue (p : Phase) (ev : Event) : Prop :=
  p.isIdle = false ∧ p.wait = none ∧ (p = .iOpen → ∃ bus dev a, ev = .busOpen bus dev a)

/-- Every transport event that the history of `t` has beyond that of `s` is one that the phase of `s` may issue. -/
def IssuesByPhase (s t : State) : Prop :=
  ∀ ev ∈ t.trace.drop s.trace.length, ev.isTransport = true → s.phase.MayIssue ev

theorem issuesByPhase_of_trace {s t : State} {new : List Event} (ht : t.trace = s.trace ++ new)
    (h : ∀ ev ∈ new, ev.isTransport = true → s.phase.MayIssue ev) : IssuesByPhase s t := by
  rw [IssuesByPhase, ht, List.drop_left]
  exact h

theorem issuesByPhase_refl (s : State) : IssuesByPhase s s :=
  issuesByPhase_of_trace (List.append_nil _).symm (by simp)

/-- After a Reset the history is the Reset alone. -/
theorem takeReset_issuesByPhase (s u : State) : IssuesByPhase s u.takeReset := by
  intro ev hev ht
  obtain rfl : ev = .reset := List.mem_singleton.mp (List.mem_of_mem_drop hev)
  cases ht

theorem refuse_issuesByPhase (s : State) (w : Word) (r : Response) : IssuesByPhase s (s.refuse w r) :=
  issuesByPhase_of_trace (refuse_trace s w r) (by simp)

theorem exec_command_issuesByPhase {w : Word} {i : Instr} {s t : State} (hd : decodeCommand w = .ok i)
    (idle : s.phase.isIdle = true) (h : exec i s = .next t) : IssuesByPhase s t := by
  rcases exec_command_cases hd idle h with ⟨_, _, _, _, _, -, rfl⟩ | ⟨v, r, rfl⟩ | ⟨-, -, rfl⟩
  · exact issuesByPhase_of_trace rfl (by simp)
  · exact refuse_issuesByPhase s v r
  · exact issuesByPhase_of_trace rfl (by simp)

/-- The operation that fails is that of the phase. -/
theorem mayIssue_of_failedEvent {s : State} {i : Instr} {e : BusErr} {ev : Event} (hm : s.microOp = some i)
    (hf : failedEvent i e s = some ev) : s.phase.MayIssue ev := by
  refine ⟨busy_of_microOp hm, wait_eq_none_of_failedEvent hm hf, fun hp => ?_⟩
  have hi : i = .busOpen := Option.some.inj (hm.symm.trans (microOp_busOpen_iff.mpr hp))
  rw [hi] at hf
  exact ⟨_, _, _, (Option.some.inj hf).symm⟩

theorem busError_issuesByPhase {s : State} {i : Instr} {e : BusErr} {ev : Event} (rest : List Answer)
    (hm : s.microOp = some i) (hf : failedEvent i e s = some ev) :
    IssuesByPhase s (((s.withAnswers rest).record ev).busError e) := by
  refine issuesByPhase_of_trace (new := [ev, .rsp (.busError e)]) (by simp [(busError_trace e _).2]) ?_
  intro fv hfv ht
  rcases List.mem_pair.mp hfv with rfl | rfl
  · exact mayIssue_of_failedEvent hm hf
  · cases ht

/-- The table of R152 and R182: the effect of a phase records the phase's own operation. -/
theorem phaseEffect_issuesByPhase (d : Block) (s : State) : IssuesByPhase s (phaseEffect d s) := by
  cases hd : drdy d.b0 <;> cases hp : s.phase <;>
    simp [IssuesByPhase, phaseEffect, hp, hd, State.endSample, State.completeInit, Phase.MayIssue, Phase.isIdle,
      Phase.wait]

theorem exec_microOp_issuesByPhase {i : Instr} {s t : State} (hm : s.microOp = some i) (h : exec i s = .next t) :
    IssuesByPhase s t := by
  rcases exec_microOp_cases hm h with ⟨-, rfl⟩ | ⟨_, rest, _, -, hf, rfl⟩ | ⟨d, rest, -, rfl⟩ | ⟨-, ht⟩
  · exact issuesByPhase_refl _
  · exact busError_issuesByPhase rest hm hf
  · exact phaseEffect_issuesByPhase d (s.withAnswers rest)
  · rw [ht ⟨0, 0, 0, 0, 0, 0, 0⟩]
    exact phaseEffect_issuesByPhase _ s

theorem step_issuesByPhase {s t : State} (h : step s = .next t) : IssuesByPhase s t := by
  rcases step_cases h with ⟨moves, -, rfl⟩ | ⟨_, -, -, rfl⟩ | ⟨w, moves, _, -, -, -, rfl⟩ |
      ⟨_, moves, _, idle, -, hd, hx⟩ | ⟨moves, _, hm, -, hx⟩
  · exact takeReset_issuesByPhase s (s.withHost moves)
  · exact issuesByPhase_refl s
  · exact refuse_issuesByPhase (s.withHost moves) w _
  · exact exec_command_issuesByPhase (s := s.withHost moves) hd idle hx
  · exact exec_microOp_issuesByPhase (s := s.withHost moves) hm hx

/-- In a busy phase after `I_OPEN` a handle is held. -/
theorem State.HandleByPhase.handle_ne_none {s : State} (h : s.HandleByPhase) (busy : s.phase.isIdle = false)
    (hp : s.phase ≠ .iOpen) : s.handle ≠ none := by
  simp [h, Phase.handleHeld_of_busy busy hp]

end Sys2Proof.Machine

/-! PROOFS. The statements of 20_memory settled. -/

namespace Sys2Proof.Machine

/-- Settles O43: kept together with R23, by which a SAMPLE starts in READY. -/
theorem handleKept : Obligations.HandleKept :=
  fun _ _ hc hs h => (keeps_handleByPhase.step ⟨hc, hs⟩ h).2

/-- Settles O31: the common state is that of the bus error with either cause. -/
theorem errorCauseIsOpaque : Obligations.ErrorCauseIsOpaque :=
  fun s _ e _ rest _ _ hm he hf =>
    ⟨(s.withAnswers rest).busError e, exec_failed_eq rest e hm he, exec_failed_eq rest e hm hf⟩

/-- Settles O32: of the cases of a micro-operation only the blocked one needs no answer and is no delay. -/
theorem operationsBlockWithoutAnswer : Obligations.OperationsBlockWithoutAnswer :=
  fun _ _ _ _ hm hf ha => exec_blocked hm hf ha

/-- Settles O50: an event of the transport was issued by the phase, and past `I_OPEN` a busy phase has a handle. -/
theorem transportOnlyWithHandle : Obligations.TransportOnlyWithHandle := by
  intro s t ev hs h hev ht
  obtain ⟨busy, hw, hopen⟩ := step_issuesByPhase h ev hev ht
  refine ⟨busy, hw, fun hno => ?_⟩
  have hp : s.phase ≠ .iOpen := by
    intro hp
    obtain ⟨bus, dev, a, rfl⟩ := hopen hp
    exact hno bus dev a rfl
  refine ⟨hs.handle_ne_none busy hp, ?_⟩
  cases hi : s.phase.inInit
  · exact .inr (Phase.inSample_of_busy busy hi)
  · exact .inl ⟨rfl, hp⟩

end Sys2Proof.Machine

/-! PROOFS. 30_encoding R92 to R97: a command word as a number, what it decodes to, and the fields of an encoded word. -/

namespace Sys2Proof

-- Fields and enumerants.

/-- A field of a word has a value exactly when the word's quotient and remainder have it. -/
theorem field_eq_iff (w : Word) (start len : Nat) (v : BitVec len) :
    w.extractLsb' start len = v ↔ w.toNat / 2 ^ start % 2 ^ len = v.toNat := by
  rw [← BitVec.toNat_inj, field_toNat]

@[simp] theorem Rate.bit_ofBit (b : BitVec 1) : (Rate.ofBit b).bit = b := by
  rcases BitVec.eq_zero_or_eq_one b with rfl | rfl <;> rfl

@[simp] theorem Sens.bit_ofBit (b : BitVec 1) : (Sens.ofBit b).bit = b := by
  rcases BitVec.eq_zero_or_eq_one b with rfl | rfl <;> rfl

@[simp] theorem ofBool_beq_one (b : BitVec 1) : BitVec.ofBool (b == 1) = b := by
  rcases BitVec.eq_zero_or_eq_one b with rfl | rfl <;> rfl

@[simp] theorem beq_one_ofBool (v : Bool) : (BitVec.ofBool v == 1) = v := by
  cases v <;> rfl

theorem Rate.ofBit_eq_opt100Hz_iff (b : BitVec 1) : Rate.ofBit b = .opt100Hz ↔ b.toNat = 1 := by
  rcases BitVec.eq_zero_or_eq_one b with rfl | rfl <;> decide

theorem Sens.ofBit_eq_opt16bit_iff (b : BitVec 1) : Sens.ofBit b = .opt16bit ↔ b.toNat = 1 := by
  rcases BitVec.eq_zero_or_eq_one b with rfl | rfl <;> decide

theorem beq_one_iff (b : BitVec 1) : (b == 1) = true ↔ b.toNat = 1 := by
  rcases BitVec.eq_zero_or_eq_one b with rfl | rfl <;> decide

-- The classes of R97.

/-- R97's INIT words, read as numbers: the opcode, the reserved bits, and no address without `addr_valid`. -/
def IsInitWord (w : Word) : Prop :=
  w.toNat / 2 ^ 60 = 1 ∧ w.toNat / 2 ^ 18 % 2 ^ 42 = 0 ∧ (w.toNat / 2 ^ 15 % 2 = 1 ∨ w.toNat / 2 ^ 8 % 2 ^ 7 = 0)

/-- The INIT with the fields of a word (R92). -/
def wordInit (w : Word) : Instr :=
  .init (Rate.ofBit (w.extractLsb' 17 1)) (Sens.ofBit (w.extractLsb' 16 1)) (w.extractLsb' 15 1 == 1)
    (w.extractLsb' 8 7) (w.extractLsb' 0 8)

/-- The decoder's three tests for INIT. -/
theorem isInitWord_iff (w : Word) : IsInitWord w ↔
    w.extractLsb' 60 4 = 0x1 ∧ w.extractLsb' 18 42 = 0 ∧ ¬ (w.extractLsb' 15 1 = 0 ∧ w.extractLsb' 8 7 ≠ 0) := by
  simp only [IsInitWord, field_eq_iff, ne_eq, BitVec.ofNat_eq_ofNat, BitVec.toNat_ofNat]
  omega

theorem eq_encodeSample_iff (w : Word) : w = encodeSample ↔ w.extractLsb' 60 4 = 0x2 ∧ w.extractLsb' 0 60 = 0 := by
  simp only [encodeSample, ← BitVec.toNat_inj, field_toNat, BitVec.ofNat_eq_ofNat, BitVec.toNat_ofNat]
  omega

/-- The decoder's two tests for DECODE, as R97 writes them: `w[63:56] = 0x30`. -/
theorem isDecodeWord_iff (w : Word) :
    w.toNat / 2 ^ 56 = 0x30 ↔ w.extractLsb' 60 4 = 0x3 ∧ w.extractLsb' 56 4 = 0 := by
  simp only [field_eq_iff, BitVec.ofNat_eq_ofNat, BitVec.toNat_ofNat]
  omega

theorem decodeCommand_of_isInitWord {w : Word} (h : IsInitWord w) : decodeCommand w = .ok (wordInit w) := by
  obtain ⟨op, res, addr⟩ := (isInitWord_iff w).mp h
  rw [decodeCommand, if_pos op, if_neg (not_not.mpr res), if_neg addr, wordInit]

theorem decodeCommand_encodeSample : decodeCommand encodeSample = .ok .sample := by
  decide

theorem decodeCommand_of_isDecodeWord {w : Word} (h : w.toNat / 2 ^ 56 = 0x30) :
    decodeCommand w = .ok (.decode (wordBlock w)) := by
  obtain ⟨op, res⟩ := (isDecodeWord_iff w).mp h
  simp [decodeCommand, op, res]

/-- R97, "else illegal": each branch of the decoder that accepts is one of the three classes. -/
theorem decodeCommand_rejects {w : Word} (hi : ¬ IsInitWord w) (hs : w ≠ encodeSample)
    (hd : w.toNat / 2 ^ 56 ≠ 0x30) : ∃ why, decodeCommand w = .error why := by
  rw [isInitWord_iff] at hi
  rw [ne_eq, eq_encodeSample_iff] at hs
  rw [ne_eq, isDecodeWord_iff] at hd
  unfold decodeCommand
  split
  case isTrue op =>
    split
    case isTrue => exact ⟨_, rfl⟩
    case isFalse res =>
      split
      case isTrue => exact ⟨_, rfl⟩
      case isFalse addr => exact absurd ⟨op, not_not.mp res, addr⟩ hi
  case isFalse =>
    split
    case isTrue op =>
      split
      case isTrue res => exact absurd ⟨op, res⟩ hs
      case isFalse => exact ⟨_, rfl⟩
    case isFalse =>
      split
      case isTrue op =>
        split
        case isTrue res => exact absurd ⟨op, res⟩ hd
        case isFalse => exact ⟨_, rfl⟩
      case isFalse => exact ⟨_, rfl⟩

/-- An accepted word is in one of the three classes of R97, which tells the instruction. -/
theorem decodeCommand_ok_cases {w : Word} {i : Instr} (h : decodeCommand w = .ok i) :
    (IsInitWord w ∧ i = wordInit w) ∨ (w = encodeSample ∧ i = .sample) ∨
      (w.toNat / 2 ^ 56 = 0x30 ∧ i = .decode (wordBlock w)) := by
  by_cases hi : IsInitWord w
  · rw [decodeCommand_of_isInitWord hi] at h
    exact .inl ⟨hi, (Except.ok.inj h).symm⟩
  by_cases hs : w = encodeSample
  · rw [hs, decodeCommand_encodeSample] at h
    exact .inr (.inl ⟨hs, (Except.ok.inj h).symm⟩)
  by_cases hd : w.toNat / 2 ^ 56 = 0x30
  · rw [decodeCommand_of_isDecodeWord hd] at h
    exact .inr (.inr ⟨hd, (Except.ok.inj h).symm⟩)
  · obtain ⟨why, hr⟩ := decodeCommand_rejects hi hs hd
    rw [hr] at h
    cases h

-- The words of the encoder.

theorem wellFormed_init_iff (rate : Rate) (sens : Sens) (addrValid : Bool) (addr : DevAddr) (bus : Byte) :
    (Instr.init rate sens addrValid addr bus).wellFormed = true ↔ addrValid = true ∨ addr = 0 := by
  simp [Instr.wellFormed]

theorem encodeInit_isInitWord {rate : Rate} {sens : Sens} {addrValid : Bool} {addr : DevAddr} {bus : Byte}
    (h : (Instr.init rate sens addrValid addr bus).wellFormed = true) :
    IsInitWord (encodeInit rate sens addrValid addr bus) := by
  have := rate.bit.isLt; have := sens.bit.isLt; have := (BitVec.ofBool addrValid).isLt
  have := addr.isLt; have := bus.isLt
  rw [IsInitWord, encodeInit_toNat]
  rcases (wellFormed_init_iff ..).mp h with rfl | rfl
  · have : (BitVec.ofBool true).toNat = 1 := rfl
    omega
  · have : (0 : DevAddr).toNat = 0 := rfl
    omega

/-- The fields of INIT's word are its operands. -/
theorem wordInit_encodeInit (rate : Rate) (sens : Sens) (addrValid : Bool) (addr : DevAddr) (bus : Byte) :
    wordInit (encodeInit rate sens addrValid addr bus) = .init rate sens addrValid addr bus := by
  obtain ⟨w, hw⟩ : ∃ w, w = encodeInit rate sens addrValid addr bus := ⟨_, rfl⟩
  have := rate.bit.isLt; have := sens.bit.isLt; have := (BitVec.ofBool addrValid).isLt
  have := addr.isLt; have := bus.isLt
  obtain ⟨hr, hs, hv, ha, hb⟩ : w.extractLsb' 17 1 = rate.bit ∧ w.extractLsb' 16 1 = sens.bit ∧
      w.extractLsb' 15 1 = BitVec.ofBool addrValid ∧ w.extractLsb' 8 7 = addr ∧ w.extractLsb' 0 8 = bus := by
    simp only [field_eq_iff, hw, encodeInit_toNat]
    omega
  rw [← hw, wordInit, hr, hs, hv, ha, hb, Rate.ofBit_bit, Sens.ofBit_bit, beq_one_ofBool]

theorem decodeCommand_encodeInit {rate : Rate} {sens : Sens} {addrValid : Bool} {addr : DevAddr} {bus : Byte}
    (h : (Instr.init rate sens addrValid addr bus).wellFormed = true) :
    decodeCommand (encodeInit rate sens addrValid addr bus) = .ok (.init rate sens addrValid addr bus) := by
  rw [decodeCommand_of_isInitWord (encodeInit_isInitWord h), wordInit_encodeInit]

/-- The bytes of DECODE's word are its block. -/
theorem wordBlock_encodeDecode (b : Block) : wordBlock (encodeDecode b) = b := by
  have := b.b0.isLt; have := b.b1.isLt; have := b.b2.isLt; have := b.b3.isLt
  have := b.b4.isLt; have := b.b5.isLt; have := b.b6.isLt
  rw [wordBlock, Block.mk.injEq]
  simp only [field_eq_iff, encodeDecode_toNat]
  omega

theorem decodeCommand_encodeDecode (b : Block) : decodeCommand (encodeDecode b) = .ok (.decode b) := by
  have := b.b0.isLt; have := b.b1.isLt; have := b.b2.isLt; have := b.b3.isLt
  have := b.b4.isLt; have := b.b5.isLt; have := b.b6.isLt
  rw [decodeCommand_of_isDecodeWord (by rw [encodeDecode_toNat]; omega), wordBlock_encodeDecode]

theorem wordInit_wellFormed {w : Word} (h : IsInitWord w) : (wordInit w).wellFormed = true := by
  obtain ⟨-, -, haddr⟩ := h
  rw [wordInit, wellFormed_init_iff, beq_one_iff, field_toNat, field_eq_iff]
  exact haddr

/-- An INIT word is the encoding of its fields. -/
theorem encode_wordInit (c : Config) {w : Word} (h : IsInitWord w) : encode c (wordInit w) = some (.command w) := by
  obtain ⟨hop, hres, -⟩ := h
  have hw : encodeInit (Rate.ofBit (w.extractLsb' 17 1)) (Sens.ofBit (w.extractLsb' 16 1)) (w.extractLsb' 15 1 == 1)
      (w.extractLsb' 8 7) (w.extractLsb' 0 8) = w := by
    rw [← BitVec.toNat_inj, encodeInit_toNat, Rate.bit_ofBit, Sens.bit_ofBit, ofBool_beq_one]
    simp only [field_toNat]
    omega
  rw [wordInit, encode, hw]

theorem encodeDecode_wordBlock {w : Word} (h : w.toNat / 2 ^ 56 = 0x30) : encodeDecode (wordBlock w) = w := by
  rw [← BitVec.toNat_inj, encodeDecode_toNat]
  simp only [wordBlock, field_toNat]
  omega

theorem decodeCommand_sound (c : Config) {w : Word} {i : Instr} (h : decodeCommand w = .ok i) :
    i.wellFormed = true ∧ encode c i = some (.command w) := by
  rcases decodeCommand_ok_cases h with ⟨hi, rfl⟩ | ⟨rfl, rfl⟩ | ⟨hd, rfl⟩
  · exact ⟨wordInit_wellFormed hi, encode_wordInit c hi⟩
  · exact ⟨rfl, rfl⟩
  · exact ⟨rfl, by rw [encode, encodeDecode_wordBlock hd]⟩

end Sys2Proof

/-! PROOFS. 30_encoding R100 to R103: the frames of the transport, decoded from and to their micro-operations. -/

namespace Sys2Proof

-- The mode byte.

/-- R103: the low four bits of the mode byte are the rate code. -/
theorem modeByte_low (sens : Sens) (rate : Rate) :
    (modeByte sens rate).extractLsb' 0 4 = 0x2 ∨ (modeByte sens rate).extractLsb' 0 4 = 0x6 := by
  cases sens <;> cases rate <;> decide

/-- The mode byte tells its operands. -/
theorem decodeWrite_modeByte {c : Config} {sens : Sens} {rate : Rate} (hpd : modeByte sens rate ≠ c.codePd)
    (hfuse : modeByte sens rate ≠ c.codeFuse) :
    decodeWrite c [regCtrl, modeByte sens rate] = .ok (.wrCtrlMode sens rate) := by
  rw [decodeWrite, if_neg (not_not.mpr rfl), if_neg hpd, if_neg hfuse]
  cases sens <;> cases rate <;> decide

-- 92_eei_decisions D7: distinct control codes.

section
variable {c : Config} (h : Machine.codesDistinct c = true)
include h

theorem codeFuse_ne_codePd : c.codeFuse ≠ c.codePd := by
  intro he
  simp [Machine.codesDistinct, he] at h

theorem modeByte_ne_codePd (sens : Sens) (rate : Rate) : modeByte sens rate ≠ c.codePd := by
  intro he
  have := modeByte_low sens rate
  simp_all [Machine.codesDistinct]

theorem modeByte_ne_codeFuse (sens : Sens) (rate : Rate) : modeByte sens rate ≠ c.codeFuse := by
  intro he
  have := modeByte_low sens rate
  simp_all [Machine.codesDistinct]

end

/-- A frame that the decoder accepts is that of its instruction, whatever the parameters. -/
theorem decodeWrite_sound {c : Config} {bytes : List Byte} {i : Instr} (h : decodeWrite c bytes = .ok i) :
    i.wellFormed = true ∧ encode c i = some (.busWrite bytes) := by
  unfold decodeWrite at h
  split at h
  case h_1 a =>
    split_ifs at h <;> cases h <;> subst a <;> exact ⟨rfl, rfl⟩
  case h_2 a v =>
    split_ifs at h with ha
    all_goals
      obtain rfl : a = regCtrl := not_not.mp ha
      cases h
      subst v
      exact ⟨rfl, rfl⟩
  case h_3 => cases h

theorem decodeRead_sound (c : Config) {n : Nat} {i : Instr} (h : decodeRead n = .ok i) :
    i.wellFormed = true ∧ encode c i = some (.busRead n) := by
  unfold decodeRead at h
  split_ifs at h <;> cases h <;> subst n <;> exact ⟨rfl, rfl⟩

end Sys2Proof

/-! PROOFS. 30_encoding R102, R110: the events that a step records are known ones, a refused word's among them. -/

namespace Sys2Proof.Machine

@[simp] theorem known_cmd (c : Config) (w : Word) : (Event.cmd w).known c = true := rfl
@[simp] theorem known_rsp (c : Config) (r : Response) : (Event.rsp r).known c = true := rfl
@[simp] theorem known_busOpen (c : Config) (b : Byte) (d : DevAddr) (a : Ack) : (Event.busOpen b d a).known c = true := rfl

@[simp] theorem known_writePd (c : Config) (a : Ack) : (Event.busWrite [10#8, c.codePd] a).known c = true := by
  simp [Event.known, knownFrames]

@[simp] theorem known_writeFuse (c : Config) (a : Ack) : (Event.busWrite [10#8, c.codeFuse] a).known c = true := by
  simp [Event.known, knownFrames]

/-- R103: the four mode bytes are in the list of R102. -/
@[simp] theorem known_writeMode (c : Config) (sens : Sens) (rate : Rate) (a : Ack) :
    (Event.busWrite [10#8, modeByte sens rate] a).known c = true := by
  cases sens <;> cases rate <;> simp [Event.known, knownFrames, modeByte, sensBit, rateCode]

@[simp] theorem known_select (c : Config) (a : Ack) {r : Byte} (h : r = 16#8 ∨ r = 2#8 ∨ r = 3#8) :
    (Event.busWrite [r] a).known c = true := by
  rcases h with rfl | rfl | rfl <;> simp [Event.known, knownFrames]

/-- R63: a read of a known count gives exactly that many bytes. -/
@[simp] theorem known_read (c : Config) {n : Nat} {bytes : List Byte} (h : n = 1 ∨ n = 3 ∨ n = 7)
    (hl : bytes.length = n) : (Event.busRead n (.ok bytes)).known c = true := by
  rcases h with rfl | rfl | rfl <;> simp [Event.known, hl]

@[simp] theorem known_failedRead (c : Config) {n : Nat} (e : BusErr) (h : n = 1 ∨ n = 3 ∨ n = 7) :
    (Event.busRead n (.err e)).known c = true := by
  rcases h with rfl | rfl | rfl <;> rfl

@[simp] theorem known_delay (c : Config) {m : Nat} (h : m = 1000 ∨ m = 100) : (Event.delay m).known c = true := by
  rcases h with rfl | rfl <;> rfl

/-- The history gone on with known events, under the same parameters. -/
theorem State.KnownEvents.append {s t : State} {new : List Event} (h : s.KnownEvents) (hc : t.config = s.config)
    (ht : t.trace = s.trace ++ new) (hn : new.all (Event.known s.config) = true) : t.KnownEvents := by
  rw [State.KnownEvents, hc, ht, List.all_append, h, hn]
  rfl

/-- A failed operation is one of R102's. -/
theorem failedEvent_known {i : Instr} {e : BusErr} {s : State} {ev : Event} (h : failedEvent i e s = some ev) :
    ev.known s.config = true := by
  cases i <;> cases h <;> simp

/-- The events of R152 and R182: the effect of a phase records known events only. -/
theorem phaseEffect_knownEvents (d : Block) {s : State} (h : s.KnownEvents) : (phaseEffect d s).KnownEvents := by
  cases hd : drdy d.b0 <;> cases hp : s.phase <;>
    simpa [State.KnownEvents, phaseEffect, hp, hd, State.endSample, State.completeInit, blockBytes] using h

/-- A word refused, written out. -/
theorem refuse_eq (s : State) (w : Word) (r : Response) :
    s.refuse w r = { s with rsp := some r, trace := s.trace ++ [.cmd w, .rsp r] } := by
  rw [← refuse_trace]
  rfl

theorem keeps_knownEvents : Keeps State.KnownEvents where
  outside _ _ _ h := h
  reset _ _ := rfl
  refuse s w r _ h := h.append rfl (refuse_trace s w r) rfl
  init _ _ _ _ _ _ _ h := h.append rfl rfl rfl
  sample _ _ _ h := h.append rfl rfl rfl
  error s _ ev e _ hf h :=
    (h.append (t := s.record ev) rfl rfl (by simp [failedEvent_known hf])).append (busError_trace e _).1
      (busError_trace e _).2 rfl
  effect _ d _ h := phaseEffect_knownEvents d h

end Sys2Proof.Machine

/-! PROOFS. The statements of 30_encoding settled. -/

namespace Sys2Proof.Machine

/-- Settles O2, instruction by instruction: a command by the fields of its word, a frame by its bytes, where D7 keeps
the control codes and the mode bytes apart. -/
theorem encodeThenDecode : Obligations.EncodeThenDecode := by
  intro c i wire hc hw he
  cases i <;> cases he
  case init => exact decodeCommand_encodeInit hw
  case sample => exact decodeCommand_encodeSample
  case decode b => exact decodeCommand_encodeDecode b
  case wrCtrlPd => simp [decodeWire, decodeWrite]
  case wrCtrlFuse => simp [decodeWire, decodeWrite, codeFuse_ne_codePd hc]
  case wrCtrlMode sens rate =>
    exact decodeWrite_modeByte (modeByte_ne_codePd hc sens rate) (modeByte_ne_codeFuse hc sens rate)
  case selCal | selStatus | selData | rdCal | rdStatus | rdData => rfl

/-- Settles O3, by the kind of wire: each decoder accepts only what its instruction encodes to. -/
theorem decodeThenEncode : Obligations.DecodeThenEncode := by
  intro c wire i h
  cases wire with
  | command w => exact decodeCommand_sound c h
  | busWrite bytes => exact decodeWrite_sound h
  | busRead n => exact decodeRead_sound c h

/-- Settles O48: the changes that make up a step keep it. -/
theorem onlyKnownFramesKept : Obligations.OnlyKnownFramesKept :=
  fun _ _ hs h => keeps_knownEvents.step hs h

/-- Settles O1: each class of R97 with the fields read off the word; a word outside all three is rejected, and a step
that finds it refuses it. -/
theorem commandWordsClassified : Obligations.CommandWordsClassified := by
  intro w
  refine ⟨fun hi => ?_, fun hs => ?_, fun hd => ?_, fun hi hs hd => ?_⟩
  · refine ⟨_, _, _, _, _, decodeCommand_of_isInitWord hi, ?_⟩
    simp only [Rate.ofBit_eq_opt100Hz_iff, Sens.ofBit_eq_opt16bit_iff, beq_one_iff, field_toNat, pow_zero, pow_one,
      Nat.div_one, and_self]
  · obtain rfl : w = encodeSample := BitVec.eq_of_toNat_eq hs
    exact decodeCommand_encodeSample
  · refine ⟨_, decodeCommand_of_isDecodeWord hd, ?_⟩
    simp only [wordBlock, field_toNat, pow_zero, Nat.div_one, and_self]
  · have hne : w ≠ encodeSample := fun he => hs (congrArg BitVec.toNat he)
    obtain ⟨why, hr⟩ := decodeCommand_rejects hi hne hd
    exact ⟨⟨why, hr⟩, fun s rest idle hh => ⟨_, step_illegal idle hh hr, rfl⟩⟩

/-- Settles O6: a spelled INIT is well formed with an absent address, whose field is 0, and with a present one. -/
theorem spelledCommandsDecode : Obligations.SpelledCommandsDecode :=
  fun _ _ _ _ b => ⟨decodeCommand_encodeInit rfl, decodeCommand_encodeInit rfl, decodeCommand_encodeSample,
    decodeCommand_encodeDecode b⟩

/-- Settles O4: closed facts, word by word. -/
theorem writtenOutWordsDecode : Obligations.WrittenOutWordsDecode := by
  unfold Obligations.WrittenOutWordsDecode
  decide

/-- Settles O5: a closed fact. -/
theorem modeByteValues : Obligations.ModeByteValues := by
  unfold Obligations.ModeByteValues
  decide

/-- Settles O14: without `addr_valid` a nonzero address is ill formed, and exec refuses the word. -/
theorem illFormedInitRefused : Obligations.IllFormedInitRefused := by
  intro s rate sens addr bus idle ha
  have hw : ¬ (Instr.init rate sens false addr bus).wellFormed = true := by
    rw [wellFormed_init_iff]
    exact not_or.mpr ⟨Bool.false_ne_true, ha⟩
  show execInit rate sens false addr bus s = _
  rw [execInit, if_pos idle, if_neg hw, refuse_eq]

/-- Settles O40, kind by kind. -/
theorem responseKindsAndPayloads : Obligations.ResponseKindsAndPayloads := by
  refine ⟨rfl, fun _ => rfl, rfl, rfl, fun _ => rfl, rfl, rfl, fun _ => ⟨rfl, rfl, rfl⟩, fun _ => rfl, fun r => ?_⟩
  cases r <;> simp [Response.kind, Response.raw, Response.calq, Response.overrun, Response.err]

end Sys2Proof.Machine

/-! PROOFS. 40_bus_microops: the micro-operations that complete, and the waiting of an idle block. -/

namespace Sys2Proof.Machine

-- R133: the register selects.

theorem transportAck_ok {ev : Ack → Event} {onOk : State → State} {s : State} {d : Block} {rest : List Answer}
    (h : s.answers = .ok d :: rest) :
    transportAck ev onOk s = .next (onOk ((s.withAnswers rest).record (ev .ok))) := by
  simp only [transportAck, h]

/-- A select where it is issued, answered ok, written out. -/
theorem issuing_regSelect_ok {s : State} {i : Instr} {p : Phase} {d : Block} {rest : List Answer} (addr : Byte)
    (hm : s.microOp = some i) (hp : s.phase = p) (ha : s.answers = .ok d :: rest) :
    issuing i s (regSelect addr s) = .next { s with
      phase := p.onOk, timer := p.onOk.wait, answers := rest
      trace := s.trace ++ [.busWrite [addr] .ok] } := by
  rw [issuing_of _ hm, regSelect, transportAck_ok ha, ← hp]
  rfl

-- R136: the delays.

/-- A delay where it is issued, but for the last one of INIT, written out. -/
theorem exec_delay_advances {s : State} {t : Duration} {p : Phase} (hp : s.phase = p) (hw : p.wait = some t)
    (hl : p ≠ .iWait4) :
    exec (.delay t) s = .next { s with
      phase := p.onOk, timer := p.onOk.wait, trace := s.trace ++ [.delay (durationMicros t)] } := by
  subst hp
  show execDelay t s = _
  rw [execDelay, issuing_of _ (microOp_delay_iff.mpr hw), if_neg hl]
  rfl

-- R130: where a micro-operation runs.

/-- The meaning of every instruction but the three commands is an issued one. -/
theorem exec_of_not_issued {s : State} {i : Instr}
    (hinit : ∀ rate sens addrValid addr bus, i ≠ .init rate sens addrValid addr bus) (hsample : i ≠ .sample)
    (hdecode : ∀ b, i ≠ .decode b) (h : s.microOp ≠ some i) : exec i s = .fault .notIssued := by
  cases i
  case init => exact absurd rfl (hinit _ _ _ _ _)
  case sample => exact absurd rfl hsample
  case decode => exact absurd rfl (hdecode _)
  case busOpen | wrCtrlPd | wrCtrlFuse | wrCtrlMode | selCal | selStatus | selData | rdCal | rdStatus | rdData | delay =>
    exact issuing_not _ h

-- R137: the idle block.

theorem microOp_eq_none_of_idle {s : State} (idle : s.phase.isIdle = true) : s.microOp = none := by
  simp [← Option.not_isSome_iff_eq_none, microOp_isSome_iff, idle]

/-- An idle step that finds no word only takes the host's move. -/
theorem step_of_idle {s u : State} (h : fetch s = fetchMicroOp u) (idle : u.phase.isIdle = true) :
    step s = .next u := by
  rcases step_fetchMicroOp h with ⟨i, hi, -⟩ | ⟨-, hs⟩
  · rw [microOp_eq_none_of_idle idle] at hi
    cases hi
  · exact hs

end Sys2Proof.Machine

/-! PROOFS. The statements of 40_bus_microops settled. -/

namespace Sys2Proof.Machine

/-- Settles O22: each select is issued in its phase, and with the answer ok it goes to the successor of the phase. -/
theorem registerSelectsComplete : Obligations.RegisterSelectsComplete := by
  intro s d rest ha
  refine ⟨fun hp => ?_, fun hp => ?_, fun hp => ?_⟩
  · exact issuing_regSelect_ok regCal (microOp_selCal_iff.mpr hp) hp ha
  · exact issuing_regSelect_ok regStatus (microOp_selStatus_iff.mpr hp) hp ha
  · exact issuing_regSelect_ok regData (microOp_selData_iff.mpr hp) hp ha

/-- Settles O27: each of the three waits times its own duration, and none is the last. -/
theorem delaysComplete : Obligations.DelaysComplete := by
  intro s
  refine ⟨fun hp => ?_, fun hp => ?_, fun hp => ?_⟩ <;> exact exec_delay_advances hp rfl (by decide)

/-- Settles O33: the micro-operation of a phase always answers next, and any other faults. -/
theorem microOpsOnlyWhereIssued : Obligations.MicroOpsOnlyWhereIssued :=
  fun _ _ hinit hsample hdecode => ⟨exec_microOp_total, exec_of_not_issued hinit hsample hdecode⟩

/-- Settles O12: with no word offered the fetch looks for a micro-operation, and an idle phase has none. -/
theorem idleBlockWaits : Obligations.IdleBlockWaits := by
  intro s idle
  refine ⟨fun hh => step_of_idle ?_ idle, fun rest hh => step_of_idle (u := s.withHost rest) ?_ idle⟩
  · rw [fetch, hh]
  · rw [fetch, hh]

/-- Settles O57: the quotient of `minCycles` is rounded up, whatever the product of duration and clock. -/
theorem delayCyclesAreTheCeiling : Obligations.DelayCyclesAreTheCeiling := by
  intro t fClk
  rw [minCycles]
  generalize durationMicros t * fClk = n
  omega

end Sys2Proof.Machine

/-! PROOFS. 41_init R152, 42_sample R182: the bus history since the command word is the script up to the phase. -/

namespace Sys2Proof.Machine

/-- In an idle phase no script is under way. -/
theorem followsScript_of_idle {s : State} (idle : s.phase.isIdle = true) : s.FollowsScript := by
  cases hp : s.phase <;> simp_all [State.FollowsScript, Phase.isIdle, Phase.inInit, Phase.inSample, Phase.statusHeld]

/-- The column "on ok" of R152 leads from each INIT phase but the last to an INIT phase, and from no other phase. -/
theorem phaseEffect_inInit (d : Block) (s : State) :
    (phaseEffect d s).phase.inInit = (s.phase.inInit && s.phase != .iWait4) := by
  rw [phaseEffect_phase]
  cases drdy d.b0 <;> cases s.phase <;> decide

/-- The column "on ok" of R182, where the status read goes on with DRDY set only (R185). -/
theorem phaseEffect_inSample (d : Block) (s : State) :
    (phaseEffect d s).phase.inSample = (s.phase == .sStSel || s.phase == .sStRd && drdy d.b0 || s.phase == .sDSel) := by
  rw [phaseEffect_phase]
  cases drdy d.b0 <;> cases s.phase <;> decide

/-- The effect of an INIT phase records the next event of INIT's script: `asa`, which the calibration read writes, is
read by the event of that read alone. -/
theorem phaseEffect_initScript (d : Block) {s : State} (hi : s.phase.inInit = true) (hl : s.phase ≠ .iWait4)
    (h : sinceCmd s.trace = (initScript s).take s.phase.position) :
    sinceCmd (phaseEffect d s).trace = (initScript (phaseEffect d s)).take (phaseEffect d s).phase.position := by
  cases hp : s.phase <;> simp_all [Phase.inInit, phaseEffect, initScript, Phase.position]

/-- The effect of a SAMPLE phase that does not end the command records the next event of SAMPLE's script: `st1` is read
by the event of the read that writes it. -/
theorem phaseEffect_sampleScript (d : Block) {s : State}
    (hp : s.phase = .sStSel ∨ s.phase = .sStRd ∧ drdy d.b0 = true ∨ s.phase = .sDSel)
    (h : sinceCmd s.trace = (sampleScript s).take s.phase.position) :
    sinceCmd (phaseEffect d s).trace = (sampleScript (phaseEffect d s)).take (phaseEffect d s).phase.position := by
  rcases hp with hp | ⟨hp, hd⟩ | hp <;> simp_all [phaseEffect, sampleScript, Phase.position]

/-- The status byte is held from a read with DRDY set (R185), and the data select leaves it. -/
theorem phaseEffect_drdy {d : Block} {s : State} (ht : (phaseEffect d s).phase.statusHeld = true)
    (h : s.phase.statusHeld = true → drdy s.st1.val = true) : drdy (phaseEffect d s).st1.val = true := by
  cases hd : drdy d.b0 <;> cases hp : s.phase <;>
    simp_all [phaseEffect, Phase.statusHeld, State.endSample, State.completeInit]

theorem phaseEffect_followsScript (d : Block) {s : State} (h : s.FollowsScript) : (phaseEffect d s).FollowsScript := by
  obtain ⟨hinit, hsample, hdrdy⟩ := h
  refine ⟨fun ht => ?_, fun ht => ?_, fun ht => phaseEffect_drdy ht hdrdy⟩
  · rw [phaseEffect_inInit, Bool.and_eq_true, bne_iff_ne] at ht
    obtain ⟨hi, hl⟩ := ht
    exact phaseEffect_initScript d hi hl (hinit hi)
  · have hp : s.phase = .sStSel ∨ s.phase = .sStRd ∧ drdy d.b0 = true ∨ s.phase = .sDSel := by
      simpa [phaseEffect_inSample, or_assoc] using ht
    refine phaseEffect_sampleScript d hp (hsample ?_)
    rcases hp with hp | ⟨hp, -⟩ | hp <;> rw [hp] <;> rfl

/-- A command word taken, in the first phase of its command: nothing has happened since. -/
theorem accept_followsScript {s t : State} {w : Word} (htrace : t.trace = s.trace ++ [.cmd w])
    (hp : t.phase = .iOpen ∨ t.phase = .sStSel) : t.FollowsScript := by
  rcases hp with hp | hp <;> simp [State.FollowsScript, htrace, hp, Phase.position, Phase.statusHeld]

theorem keeps_followsScript : Keeps State.FollowsScript where
  outside _ _ _ h := h
  reset _ _ := followsScript_of_idle rfl
  refuse _ _ _ idle _ := followsScript_of_idle idle
  init _ _ _ _ _ _ _ _ := accept_followsScript rfl (.inl rfl)
  sample _ _ _ _ := accept_followsScript rfl (.inr rfl)
  error _ _ _ e _ _ _ := followsScript_of_idle (busError_isIdle e _)
  effect _ d _ h := phaseEffect_followsScript d h

end Sys2Proof.Machine

/-! PROOFS. 41_init R151 to R164: an INIT accepted, its transport operations answered, and its end. -/

namespace Sys2Proof.Machine

-- R151: acceptance.

theorem Phase.isIdle_iff {p : Phase} : p.isIdle = true ↔ p = .unconf ∨ p = .ready := by
  cases p <;> simp [Phase.isIdle]

/-- A well-formed INIT in an idle phase is accepted. -/
theorem exec_init_accepts {s : State} {rate : Rate} {sens : Sens} {addrValid : Bool} {addr : DevAddr} {bus : Byte}
    (idle : s.phase.isIdle = true) (hw : (Instr.init rate sens addrValid addr bus).wellFormed = true) :
    exec (.init rate sens addrValid addr bus) s = .next
      ((s.accept (encodeInit rate sens addrValid addr bus)).beginInit rate sens (resolveAddr addrValid addr) bus) := by
  show execInit rate sens addrValid addr bus s = _
  rw [execInit, if_pos idle, if_pos hw]

/-- INIT's word tells whether an address is given (R92). -/
theorem encodeInit_ne_of_addrValid_ne {rate rate' : Rate} {sens sens' : Sens} {addrValid addrValid' : Bool}
    {addr addr' : DevAddr} {bus bus' : Byte} (h : addrValid ≠ addrValid') :
    encodeInit rate sens addrValid addr bus ≠ encodeInit rate' sens' addrValid' addr' bus' := by
  intro he
  have hi := congrArg wordInit he
  rw [wordInit_encodeInit, wordInit_encodeInit] at hi
  cases hi
  exact h rfl

-- R153 to R161: the operations answered ok.

/-- A transport operation of the phase, answered ok, has the phase's effect. -/
theorem exec_ok {i : Instr} {s : State} {d : Block} {rest : List Answer} (hm : s.microOp = some i)
    (hw : s.phase.wait = none) (ha : s.answers = .ok d :: rest) :
    exec i s = .next (phaseEffect d (s.withAnswers rest)) := by
  rw [exec_effect d rest hm fun _ => ha, if_pos hw]

/-- A control-register write where it is issued, answered ok, written out (R132). -/
theorem issuing_regWrite_ok {s : State} {i : Instr} {p : Phase} {d : Block} {rest : List Answer} (v : Byte)
    (hm : s.microOp = some i) (hp : s.phase = p) (ha : s.answers = .ok d :: rest) :
    issuing i s (regWrite v s) = .next { s with
      phase := p.onOk, timer := p.onOk.wait, answers := rest
      trace := s.trace ++ [.busWrite [0x0A, v] .ok] } := by
  rw [issuing_of _ hm, regWrite, transportAck_ok ha, ← hp]
  rfl

/-- R160: the mode byte as the two choices of the sensitivity bit and the rate code. -/
theorem modeByte_eq_ite (sens : Sens) (rate : Rate) :
    modeByte sens rate =
      (if sens = .opt16bit then 0x10 else 0x00) ||| (if rate = .opt100Hz then 0x06 else 0x02) := by
  cases sens <;> cases rate <;> rfl

-- R163: the last delay.

/-- INIT's last wait ends it. -/
theorem exec_lastDelay {s : State} (hp : s.phase = .iWait4) :
    exec (.delay .tMode) s = .next (s.record (.delay 100)).completeInit := by
  show execDelay .tMode s = _
  rw [execDelay, issuing_of _ (microOp_delay_iff.mpr (by rw [hp]; rfl)), if_pos hp]
  rfl

end Sys2Proof.Machine

/-! PROOFS. 41_init R163: the configuration within an epoch. -/

namespace Sys2Proof.Machine

/-- `t` is in a configured phase and has the configuration of `s`. -/
def SameConfiguration (s t : State) : Prop :=
  t.phase.configured = true ∧ t.cfgValid = s.cfgValid ∧ t.busId = s.busId ∧ t.devAddr = s.devAddr ∧
    t.sens = s.sens ∧ t.asa = s.asa ∧ t.handle = s.handle

theorem Phase.eq_ready_of_idle {p : Phase} (hc : p.configured = true) (idle : p.isIdle = true) : p = .ready := by
  cases p <;> simp_all [Phase.configured, Phase.isIdle]

theorem Phase.not_inInit_of_configured {p : Phase} (h : p.configured = true) : p.inInit = false := by
  cases p <;> simp_all [Phase.configured, Phase.inInit]

/-- No effect of a SAMPLE phase writes the configuration. -/
theorem phaseEffect_sameConfiguration (d : Block) {s : State} (h : s.phase.configured = true) :
    SameConfiguration s (phaseEffect d s) := by
  cases hd : drdy d.b0 <;> cases hp : s.phase <;>
    simp_all [SameConfiguration, phaseEffect, Phase.configured, State.endSample]

/-- The bus error of a SAMPLE leaves the configuration (R190). -/
theorem busError_sameConfiguration (e : BusErr) {s : State} (h : s.phase.configured = true) :
    SameConfiguration s (s.busError e) := by
  rw [busError_notInit e (Phase.not_inInit_of_configured h)]
  exact ⟨rfl, rfl, rfl, rfl, rfl, rfl, rfl⟩

theorem exec_microOp_sameConfiguration {i : Instr} {s t : State} (hc : s.phase.configured = true)
    (hm : s.microOp = some i) (h : exec i s = .next t) : SameConfiguration s t := by
  rcases exec_microOp_cases hm h with ⟨-, rfl⟩ | ⟨e, rest, ev, -, -, rfl⟩ | ⟨d, rest, -, rfl⟩ | ⟨-, ht⟩
  · exact ⟨hc, rfl, rfl, rfl, rfl, rfl, rfl⟩
  · exact busError_sameConfiguration e (s := (s.withAnswers rest).record ev) hc
  · exact phaseEffect_sameConfiguration d (s := s.withAnswers rest) hc
  · rw [ht ⟨0, 0, 0, 0, 0, 0, 0⟩]
    exact phaseEffect_sameConfiguration _ hc

end Sys2Proof.Machine

/-! PROOFS. The statements of 41_init settled. -/

namespace Sys2Proof.Machine

/-- Settles O47: the changes that make up a step keep it. -/
theorem protocolOrderKept : Obligations.ProtocolOrderKept :=
  fun _ _ hs h => keeps_followsScript.step hs h

/-- Settles O13: both idle phases accept a well-formed INIT alike. -/
theorem initAccepted : Obligations.InitAccepted := by
  intro s rate sens addrValid addr bus hp hw
  rw [exec_init_accepts (Phase.isIdle_iff.mpr hp) ((wellFormed_init_iff ..).mpr hw)]
  exact ⟨_, _, _, rfl⟩

/-- Settles O56: the words differ in the address-valid bit, and both forms resolve to the default address. -/
theorem explicitDefaultAddress : Obligations.ExplicitDefaultAddress := by
  intro s rate sens bus idle
  exact ⟨encodeInit_ne_of_addrValid_ne Bool.false_ne_true, (s.accept 0).beginInit rate sens 0x0C bus,
    exec_init_accepts idle rfl, exec_init_accepts idle rfl⟩

/-- Settles O20: the effect of `I_OPEN`. -/
theorem openCompletes : Obligations.OpenCompletes := by
  intro s d rest hp ha
  rw [exec_ok (microOp_busOpen_iff.mpr hp) (by rw [hp]; rfl) ha]
  simp only [phaseEffect, State.withAnswers_phase, hp]
  rfl

/-- Settles O21: each write is issued in its phase, and with the answer ok it goes to the successor of the phase. -/
theorem controlWritesComplete : Obligations.ControlWritesComplete := by
  intro s d rest ha
  refine ⟨fun hp => ?_, fun hp => ?_, fun hp => ?_, fun hp => ?_⟩
  · exact issuing_regWrite_ok _ (microOp_wrCtrlPd_iff.mpr (.inl hp)) hp ha
  · exact issuing_regWrite_ok _ (microOp_wrCtrlFuse_iff.mpr hp) hp ha
  · exact issuing_regWrite_ok _ (microOp_wrCtrlPd_iff.mpr (.inr hp)) hp ha
  · rw [← modeByte_eq_ite]
    exact issuing_regWrite_ok _ (microOp_wrCtrlMode_iff.mpr ⟨hp, rfl, rfl⟩) hp ha

/-- Settles O23: the effect of `I_CALRD`. -/
theorem calibrationReadCompletes : Obligations.CalibrationReadCompletes := by
  intro s d rest hp ha
  rw [exec_ok (microOp_rdCal_iff.mpr hp) (by rw [hp]; rfl) ha]
  simp only [phaseEffect, State.withAnswers_phase, hp]
  rfl

/-- Settles O28: the end of INIT, with the free value and the counter as they are. -/
theorem lastDelayCompletesInit : Obligations.LastDelayCompletesInit := by
  intro s hp
  rw [exec_lastDelay hp, List.append_cons]
  exact ⟨_, _, rfl⟩

/-- Settles O29: every transport operation that fails takes the one bus error, whose INIT side this is. -/
theorem busErrorAbortsInit : Obligations.BusErrorAbortsInit := by
  intro s i e rest ev hi hm hf ha
  rw [exec_failed hm hf ha, record_busError_eq _ ev e e, busError_inInit (s := s.withAnswers rest) e hi]
  exact ⟨_, _, _, _, _, _, rfl⟩

/-- Settles O51, by the cases of a step: of a configured phase, INIT accepted in READY and Reset alone write the
configuration. -/
theorem configurationImmutableInEpoch : Obligations.ConfigurationImmutableInEpoch := by
  intro s t hc h
  rcases step_cases h with ⟨moves, hh, rfl⟩ | ⟨moves, -, -, rfl⟩ | ⟨w, moves, _, -, -, -, rfl⟩ |
      ⟨w, moves, i, idle, hh, hd, hx⟩ | ⟨moves, i, hm, -, hx⟩
  · exact .inr (.inr ⟨rfl, moves, hh⟩)
  · exact .inl ⟨hc, rfl, rfl, rfl, rfl, rfl, rfl⟩
  · exact .inl ⟨hc, rfl, rfl, rfl, rfl, rfl, rfl⟩
  · rcases exec_command_cases (s := s.withHost moves) hd idle hx with
      ⟨rate, sens, addrValid, addr, bus, rfl, rfl⟩ | ⟨_, _, rfl⟩ | ⟨-, -, rfl⟩
    · exact .inr (.inl ⟨Phase.eq_ready_of_idle hc idle, rfl, w, moves, rate, sens, addrValid, addr, bus, hh, hd⟩)
    · exact .inl ⟨hc, rfl, rfl, rfl, rfl, rfl, rfl⟩
    · exact .inl ⟨rfl, rfl, rfl, rfl, rfl, rfl, rfl⟩
  · exact .inl (exec_microOp_sameConfiguration (s := s.withHost moves) hc hm hx)

/-- Settles O8, phase by phase. -/
theorem microOpOfEachPhase : Obligations.MicroOpOfEachPhase := by
  intro s
  unfold State.microOp
  cases s.phase <;> rfl

end Sys2Proof.Machine

/-! PROOFS. 41_init R150: the whole command, step by step. -/

namespace Sys2Proof.Machine

/-- A run goes on after a step that answers next. -/
theorem run_succ {M : Host.Core} {k : Nat} {s t : M.State} (h : M.step s = .next t) : M.run (k + 1) s = M.run k t := by
  simp only [Host.Core.run, h]

/-- With a quiet host a busy block runs the micro-operation of its phase (60_exceptions R236). -/
theorem step_of_quiet {s : State} {i : Instr} (hm : s.microOp = some i) (hq : quiet s.host = true) :
    step s = exec i s := by
  have hf : fetch s = fetchMicroOp s := by
    unfold fetch
    split <;> simp_all [quiet, busy_of_microOp hm]
  rw [step, hf, fetchMicroOp, hm]

/-- With a quiet host a run goes on after the micro-operation of a phase. -/
theorem run_microOp {s t : State} {i : Instr} {k : Nat} (hx : exec i s = .next t) (hm : s.microOp = some i)
    (hq : quiet s.host = true) : Host.Core.run Sys2Proof.core (k + 1) s = Host.Core.run Sys2Proof.core k t :=
  run_succ (M := Sys2Proof.core) ((step_of_quiet hm hq).trans hx)

/-- With an answer ok to each of its seven transport operations, INIT's phases run from `I_OPEN` to the last wait. -/
theorem run_initPhases {u : State} {a b c d e f g : Block} {rest : List Answer} (k : Nat) (hp : u.phase = .iOpen)
    (hq : quiet u.host = true) (ha : u.answers = .ok a :: .ok b :: .ok c :: .ok d :: .ok e :: .ok f :: .ok g :: rest) :
    Host.Core.run Sys2Proof.core (k + 10) u = Host.Core.run Sys2Proof.core k ({ u with
      phase := .iWait4, timer := some .tMode, asa := ⟨⟨e.b0, e.b1, e.b2⟩, true⟩
      handle := some ⟨u.busId.val, u.devAddr.val⟩, answers := rest
      trace := u.trace ++ [.busOpen u.busId.val u.devAddr.val .ok, .busWrite [0x0A, u.config.codePd] .ok, .delay 1000,
        .busWrite [0x0A, u.config.codeFuse] .ok, .delay 1000, .busWrite [0x10] .ok,
        .busRead 3 (.ok [e.b0, e.b1, e.b2]), .busWrite [0x0A, u.config.codePd] .ok, .delay 100,
        .busWrite [0x0A, (if u.sens.val = .opt16bit then 0x10 else 0x00) |||
          (if u.rateTmp.val = .opt100Hz then 0x06 else 0x02)] .ok] } : State) := by
  refine Eq.trans (run_microOp (openCompletes u a _ hp ha) (microOp_busOpen_iff.mpr hp) hq) ?_
  refine Eq.trans (run_microOp ((controlWritesComplete _ b _ rfl).1 rfl) rfl hq) ?_
  refine Eq.trans (run_microOp ((delaysComplete _).1 rfl) rfl hq) ?_
  refine Eq.trans (run_microOp ((controlWritesComplete _ c _ rfl).2.1 rfl) rfl hq) ?_
  refine Eq.trans (run_microOp ((delaysComplete _).2.1 rfl) rfl hq) ?_
  refine Eq.trans (run_microOp ((registerSelectsComplete _ d _ rfl).1 rfl) rfl hq) ?_
  refine Eq.trans (run_microOp (calibrationReadCompletes _ e _ rfl rfl) rfl hq) ?_
  refine Eq.trans (run_microOp ((controlWritesComplete _ f _ rfl).2.2.1 rfl) rfl hq) ?_
  refine Eq.trans (run_microOp ((delaysComplete _).2.2 rfl) rfl hq) ?_
  refine Eq.trans (run_microOp ((controlWritesComplete _ g _ rfl).2.2.2 rfl) rfl hq) ?_
  simp only [List.append_assoc, List.cons_append, List.nil_append]

/-- Settles O54: the acceptance (O13), the ten operations up to the last wait (O20 to O23, O27), and the last delay. -/
theorem initRunsToReady : Obligations.InitRunsToReady := by
  intro s w rate sens addrValid addr bus moves a b c d e f g rest idle hh hq hd ha dev
  obtain ⟨hw, he⟩ := decodeCommand_sound s.config hd
  obtain rfl : encodeInit rate sens addrValid addr bus = w := by cases he; rfl
  obtain ⟨v, n, r, hx⟩ := initAccepted (s.withHost moves) rate sens addrValid addr bus
    (Phase.isIdle_iff.mp idle) ((wellFormed_init_iff ..).mp hw)
  have accepted := run_succ (M := Sys2Proof.core) (k := 11) ((step_command idle hh hd).trans hx)
  have waiting := accepted.trans (run_initPhases 1 rfl hq ha)
  refine ⟨_, waiting.trans (run_microOp (k := 0) (exec_lastDelay rfl) rfl hq), rfl, rfl, rfl, rfl, rfl, rfl, rfl, rfl,
    rfl, rfl, rfl, ?_⟩
  simp [State.completeInit, dev]

end Sys2Proof.Machine

/-! PROOFS. 42_sample R181 to R190: a SAMPLE accepted, its status byte, and its end with a response. -/

namespace Sys2Proof.Machine

-- R181: acceptance.

/-- SAMPLE in an idle phase with a configuration is accepted. -/
theorem exec_sample_accepts {s : State} (idle : s.phase.isIdle = true) (hc : s.cfgValid = true) :
    exec .sample s = .next ((s.accept encodeSample).enter .sStSel) := by
  show execSample s = _
  rw [execSample, if_pos idle, if_pos hc]

-- R105: the flags of the status byte, read off it as a number.

theorem drdy_eq_decide (st : Byte) : drdy st = decide (st.toNat % 2 = 1) := by
  rw [drdy, BitVec.getLsbD, Nat.testBit_zero]

theorem dor_eq_decide (st : Byte) : dor st = decide (st.toNat / 2 % 2 = 1) := by
  rw [dor, BitVec.getLsbD, Nat.testBit_eq_decide_div_mod_eq, pow_one]

-- R185, R189, R190: the end of a SAMPLE.

/-- The end of a SAMPLE after an event, written out, with the free values and the counter as they are. -/
theorem record_endSample_eq (s : State) (ev : Event) (r : Response) :
    ∃ v b n, (s.record ev).endSample r = { s with
      phase := .ready, timer := none, st1 := ⟨v, false⟩, blk := ⟨b, false⟩, rsp := some r
      trace := s.trace ++ [ev, .rsp r], freeCount := n } := by
  rw [List.append_cons]
  exact ⟨_, _, _, rfl⟩

theorem Phase.not_inInit_of_inSample {p : Phase} (h : p.inSample = true) : p.inInit = false :=
  Phase.not_inInit_of_configured (Phase.configured_of_inSample h)

/-- R189: the response of a decoded block, whatever the overrun flag. -/
theorem decodeResponse_spec (x : Option Sample) (overrun : Bool) :
    (x = none → decodeResponse x overrun = .saturated) ∧
      ∀ d, x = some d → decodeResponse x overrun = .sample ⟨d.raw, d.calq, overrun⟩ := by
  refine ⟨?_, ?_⟩
  · rintro rfl
    rfl
  · rintro d rfl
    rfl

end Sys2Proof.Machine

/-! PROOFS. 42_sample R191 (e): outside INIT the history goes on without a write to the control register. -/

namespace Sys2Proof.Machine

/-- No event is a write to the control register, successful or failed. -/
def NoCtrlWrite (events : List Event) : Prop := ∀ bytes a, .busWrite (0x0A :: bytes) a ∉ events

@[simp] theorem noCtrlWrite_nil : NoCtrlWrite [] := fun _ _ => List.not_mem_nil

@[simp] theorem noCtrlWrite_cons (ev : Event) (events : List Event) :
    NoCtrlWrite (ev :: events) ↔ (∀ bytes a, ev ≠ .busWrite (0x0A :: bytes) a) ∧ NoCtrlWrite events := by
  simp only [NoCtrlWrite, List.mem_cons, not_or, forall_and, ne_comm]

/-- An event that is no such write wrote nothing there. -/
theorem ctrlWritten_eq_none {ev : Event} (h : ∀ bytes a, ev ≠ .busWrite (0x0A :: bytes) a) :
    ev.ctrlWritten = none := by
  unfold Event.ctrlWritten
  split
  case h_1 a v => exact if_neg fun ha => h [v] .ok (by rw [ha, regCtrl])
  case h_2 => rfl

/-- Such events leave the last control write as it was. -/
theorem NoCtrlWrite.lastCtrl_eq_none {events : List Event} (h : NoCtrlWrite events) : lastCtrl events = none := by
  induction events with
  | nil => rfl
  | cons ev events ih =>
    obtain ⟨hev, tail⟩ := (noCtrlWrite_cons ev events).mp h
    rw [lastCtrl_cons, ih tail, ctrlWritten_eq_none hev]
    rfl

/-- The history of `t` is that of `s` gone on without a write to the control register. -/
def LeavesCtrl (s t : State) : Prop := ∃ new, t.trace = s.trace ++ new ∧ NoCtrlWrite new

theorem LeavesCtrl.refl (s : State) : LeavesCtrl s s := ⟨[], by simp, by simp⟩

theorem LeavesCtrl.lastCtrl_eq {s t : State} (h : LeavesCtrl s t) : lastCtrl t.trace = lastCtrl s.trace := by
  obtain ⟨new, ht, hn⟩ := h
  rw [ht, lastCtrl_append, hn.lastCtrl_eq_none, Option.none_or]

theorem refuse_leavesCtrl (s : State) (w : Word) (r : Response) : LeavesCtrl s (s.refuse w r) :=
  ⟨_, refuse_trace s w r, by simp⟩

theorem exec_command_leavesCtrl {w : Word} {i : Instr} {s t : State} (hd : decodeCommand w = .ok i)
    (idle : s.phase.isIdle = true) (h : exec i s = .next t) : LeavesCtrl s t := by
  rcases exec_command_cases hd idle h with ⟨_, _, _, _, _, -, rfl⟩ | ⟨v, r, rfl⟩ | ⟨-, -, rfl⟩
  · exact ⟨_, rfl, by simp⟩
  · exact refuse_leavesCtrl s v r
  · exact ⟨_, rfl, by simp⟩

/-- The table of R182: outside INIT four micro-operations are issued. -/
theorem microOp_cases_of_not_inInit {s : State} {i : Instr} (hn : s.phase.inInit = false) (hm : s.microOp = some i) :
    i = .selStatus ∨ i = .rdStatus ∨ i = .selData ∨ i = .rdData := by
  unfold State.microOp at hm
  split at hm <;> simp_all [Phase.inInit]

/-- Outside INIT the operation that fails is a select of another register or a read. -/
theorem failedEvent_noCtrlWrite {i : Instr} {e : BusErr} {s : State} {ev : Event} (hn : s.phase.inInit = false)
    (hm : s.microOp = some i) (hf : failedEvent i e s = some ev) : NoCtrlWrite [ev, .rsp (.busError e)] := by
  rcases microOp_cases_of_not_inInit hn hm with rfl | rfl | rfl | rfl <;> cases hf <;> simp

theorem busError_leavesCtrl {i : Instr} {e : BusErr} {s : State} {ev : Event} (rest : List Answer)
    (hn : s.phase.inInit = false) (hm : s.microOp = some i) (hf : failedEvent i e s = some ev) :
    LeavesCtrl s (((s.withAnswers rest).record ev).busError e) :=
  ⟨_, by simp [(busError_trace e _).2], failedEvent_noCtrlWrite hn hm hf⟩

/-- The table of R182: a SAMPLE phase selects the status or the data register, or reads. -/
theorem phaseEffect_leavesCtrl (d : Block) {s : State} (hn : s.phase.inInit = false) :
    LeavesCtrl s (phaseEffect d s) := by
  cases hd : drdy d.b0 <;> cases hp : s.phase <;>
    simp_all [LeavesCtrl, phaseEffect, Phase.inInit, State.endSample]

theorem exec_microOp_leavesCtrl {i : Instr} {s t : State} (hn : s.phase.inInit = false) (hm : s.microOp = some i)
    (h : exec i s = .next t) : LeavesCtrl s t := by
  rcases exec_microOp_cases hm h with ⟨-, rfl⟩ | ⟨_, rest, _, -, hf, rfl⟩ | ⟨d, rest, -, rfl⟩ | ⟨-, ht⟩
  · exact .refl _
  · exact busError_leavesCtrl rest hn hm hf
  · exact phaseEffect_leavesCtrl d (s := s.withAnswers rest) hn
  · rw [ht ⟨0, 0, 0, 0, 0, 0, 0⟩]
    exact phaseEffect_leavesCtrl _ hn

/-- Outside INIT a step is a Reset, or goes on with the history without a write to the control register. -/
theorem step_reset_or_leavesCtrl {s t : State} (hn : s.phase.inInit = false) (h : step s = .next t) :
    (∃ rest, s.host = .reset :: rest ∧ t.trace = [.reset]) ∨ LeavesCtrl s t := by
  rcases step_cases h with ⟨rest, hh, rfl⟩ | ⟨_, -, -, rfl⟩ | ⟨w, moves, _, -, -, -, rfl⟩ |
      ⟨_, moves, _, idle, -, hd, hx⟩ | ⟨moves, _, hm, -, hx⟩
  · exact .inl ⟨rest, hh, rfl⟩
  · exact .inr (.refl s)
  · exact .inr (refuse_leavesCtrl (s.withHost moves) w _)
  · exact .inr (exec_command_leavesCtrl (s := s.withHost moves) hd idle hx)
  · exact .inr (exec_microOp_leavesCtrl (s := s.withHost moves) hn hm hx)

end Sys2Proof.Machine

/-! PROOFS. The statements of 42_sample settled. -/

namespace Sys2Proof.Machine

/-- Settles O16: the accepting branch of SAMPLE. -/
theorem sampleAccepted : Obligations.SampleAccepted :=
  fun _ idle hc => ⟨_, exec_sample_accepts idle hc⟩

/-- Settles O24: the effect of `S_STRD` with DRDY set. -/
theorem statusReadReady : Obligations.StatusReadReady := by
  intro s d rest hp ha hb
  have ready : drdy d.b0 = true := by simp [drdy_eq_decide, hb]
  rw [exec_ok (microOp_rdStatus_iff.mpr hp) (by rw [hp]; rfl) ha]
  simp only [phaseEffect, State.withAnswers_phase, hp, ready]
  rfl

/-- Settles O25: the effect of `S_STRD` with DRDY clear, the end of the SAMPLE. -/
theorem statusReadNotReady : Obligations.StatusReadNotReady := by
  intro s d rest hp ha hb
  have notReady : drdy d.b0 = false := by simp [drdy_eq_decide, hb]
  obtain ⟨v, b, n, hend⟩ := record_endSample_eq (s.withAnswers rest) (.busRead 1 (.ok [d.b0])) .notReady
  refine ⟨v, b, n, ?_⟩
  rw [exec_ok (microOp_rdStatus_iff.mpr hp) (by rw [hp]; rfl) ha]
  simp only [phaseEffect, State.withAnswers_phase, hp, notReady]
  exact congrArg _ hend

/-- Settles O26: the effect of `S_DRD`, the end of the SAMPLE with the response of the decoded block. -/
theorem dataReadCompletes : Obligations.DataReadCompletes := by
  intro s b rest hp ha
  obtain ⟨v, c, n, hend⟩ := record_endSample_eq (s.withAnswers rest) (.busRead 7 (.ok (blockBytes b)))
    (decodeResponse (sampleDecode b s.sens.val s.asa.val) (dor s.st1.val))
  rw [← dor_eq_decide]
  refine ⟨_, v, c, n, ?_, decodeResponse_spec _ _⟩
  rw [exec_ok (microOp_rdData_iff.mpr hp) (by rw [hp]; rfl) ha]
  simp only [phaseEffect, State.withAnswers_phase, hp]
  exact congrArg _ hend

/-- Settles O30: every transport operation that fails takes the one bus error, whose SAMPLE side this is. -/
theorem busErrorEndsSample : Obligations.BusErrorEndsSample := by
  intro s i e rest ev hs hm hf ha
  obtain ⟨v, b, n, hend⟩ := record_endSample_eq (s.withAnswers rest) ev (.busError e)
  rw [exec_failed hm hf ha, busError_notInit (s := (s.withAnswers rest).record ev) e (Phase.not_inInit_of_inSample hs),
    hend]
  exact ⟨v, b, n, rfl⟩

/-- Settles O52: a Reset leaves no write in the history, and any other step outside INIT adds none to the control
register. -/
theorem onlyInitWritesControlRegister : Obligations.OnlyInitWritesControlRegister := by
  intro s t hn h
  rcases step_reset_or_leavesCtrl hn h with ⟨rest, hh, ht⟩ | hl
  · refine ⟨fun bytes a hm => ?_, fun hno => absurd hh (hno rest)⟩
    rw [ht] at hm
    cases List.mem_singleton.mp (List.mem_of_mem_drop hm)
  · refine ⟨fun bytes a => ?_, fun _ => hl.lastCtrl_eq⟩
    obtain ⟨new, ht, hw⟩ := hl
    rw [ht, List.drop_left]
    exact hw bytes a

end Sys2Proof.Machine

/-! PROOFS. 42_sample R180: the whole command, step by step. -/

namespace Sys2Proof.Machine

section
variable {s : State} {moves : List HostMove}
  (hp : s.phase = .ready) (hc : s.cfgValid = true) (hh : s.host = .cmd 0x2000000000000000 :: moves)
  (hq : quiet moves = true)
include hp hc hh hq

/-- From READY, with SAMPLE offered and the status select answered ok, two steps lead to the status read. -/
theorem run_sample_to_statusRead {a : Block} {rest : List Answer} (k : Nat) (ha : s.answers = .ok a :: rest) :
    ∃ u : State, Host.Core.run Sys2Proof.core (k + 2) s = Host.Core.run Sys2Proof.core k u ∧ u.phase = .sStRd ∧
      u.host = moves ∧ u.answers = rest ∧ u.sens = s.sens ∧ u.asa = s.asa ∧
      u.trace = s.trace ++ [.cmd 0x2000000000000000, .busWrite [0x02] .ok] := by
  obtain ⟨r, hx⟩ := sampleAccepted (s.withHost moves) (by rw [State.withHost_phase, hp]; rfl) hc
  have accepted := run_succ (M := Sys2Proof.core) (k := k + 1)
    ((step_command (by rw [hp]; rfl) hh decodeCommand_encodeSample).trans hx)
  have selected := accepted.trans (run_microOp ((registerSelectsComplete _ a rest (by exact ha)).2.1 rfl) rfl hq)
  exact ⟨_, selected, rfl, rfl, rfl, rfl, rfl, List.append_assoc ..⟩

/-- With DRDY set, two more steps lead to the data read. -/
theorem run_sample_to_dataRead {a st c : Block} {rest : List Answer} (k : Nat)
    (ha : s.answers = .ok a :: .ok st :: .ok c :: rest) (hb : st.b0.toNat % 2 = 1) :
    ∃ u : State, Host.Core.run Sys2Proof.core (k + 4) s = Host.Core.run Sys2Proof.core k u ∧ u.phase = .sDRd ∧
      u.host = moves ∧ u.answers = rest ∧ u.sens = s.sens ∧ u.asa = s.asa ∧ u.st1.val = st.b0 ∧
      u.trace = s.trace ++ [.cmd 0x2000000000000000, .busWrite [0x02] .ok, .busRead 1 (.ok [st.b0]),
        .busWrite [0x03] .ok] := by
  obtain ⟨u, hrun, hup, rfl, hua, hsens, hasa, ht⟩ := run_sample_to_statusRead hp hc hh hq (k + 2) ha
  have ready := hrun.trans (run_microOp (statusReadReady u st _ hup hua hb) (microOp_rdStatus_iff.mpr hup) hq)
  have selected := ready.trans (run_microOp ((registerSelectsComplete _ c rest rfl).2.2 rfl) rfl hq)
  exact ⟨_, selected, rfl, rfl, rfl, hsens, hasa, rfl, by simp [ht]⟩

end

/-- Settles O55: with DRDY clear the status read ends the SAMPLE (O25), and else the data read (O26). -/
theorem sampleRunsToResponse : Obligations.SampleRunsToResponse := by
  intro s moves a st c b rest hp hc hh hq ha
  refine ⟨fun hb => ?_, fun hb => ?_⟩
  · obtain ⟨u, hrun, hup, rfl, hua, -, -, ht⟩ := run_sample_to_statusRead hp hc hh hq 1 ha
    obtain ⟨_, _, _, hx⟩ := statusReadNotReady u st _ hup hua hb
    exact ⟨_, hrun.trans (run_microOp (k := 0) hx (microOp_rdStatus_iff.mpr hup) hq), rfl, rfl, rfl, by simp [ht]⟩
  · obtain ⟨u, hrun, hup, rfl, hua, hsens, hasa, hst, ht⟩ := run_sample_to_dataRead hp hc hh hq 1 ha hb
    obtain ⟨r, _, _, _, hx, hsat, hsample⟩ := dataReadCompletes u b rest hup hua
    rw [hsens, hasa] at hsat hsample
    rw [hst] at hsample
    exact ⟨_, r, hrun.trans (run_microOp (k := 0) hx (microOp_rdData_iff.mpr hup) hq), rfl, rfl, rfl, hsat,
      hsample, by simp [ht]⟩

end Sys2Proof.Machine

/-! PROOFS. 43_decode R200 to R202: the saturation bit as the mask test, and what a decoded block holds. -/

namespace Sys2Proof.Machine

@[simp] theorem Axes.get_build {α : Type} (f : Axis → α) (a : Axis) : (Axes.build f).get a = f a := by
  cases a <;> rfl

/-- R201: the test of the spec, `b[6] & 0x08 != 0`. -/
theorem hofl_eq_decide (b : Block) : hofl b = decide (b.b6 &&& 0x08 ≠ 0) := by
  have mask : b.b6 &&& 0x08 = if hofl b then 0x08 else 0 := BitVec.and_twoPow b.b6 3
  rw [mask]
  cases hofl b <;> rfl

theorem sampleDecode_of_saturated {b : Block} (h : hofl b = true) (sens : Sens) (asa : Axes Byte) :
    sampleDecode b sens asa = none := if_pos h

theorem sampleDecode_of_unsaturated {b : Block} (h : hofl b = false) (sens : Sens) (asa : Axes Byte) :
    sampleDecode b sens asa = some ⟨.build (rawAxis b), .build fun a => calq sens (asa.get a) (rawAxis b a), false⟩ :=
  if_neg (by simp [h])

/-- R200: a block that decodes gives the Sample of its readings. -/
theorem sampleDecode_eq_some {b : Block} {sens : Sens} {asa : Axes Byte} {d : Sample}
    (h : sampleDecode b sens asa = some d) :
    d = ⟨.build (rawAxis b), .build fun a => calq sens (asa.get a) (rawAxis b a), false⟩ := by
  cases hb : hofl b with
  | true => cases (sampleDecode_of_saturated hb sens asa).symm.trans h
  | false => exact (Option.some.inj ((sampleDecode_of_unsaturated hb sens asa).symm.trans h)).symm

/-- R202: the little-endian byte pair, as a signed integer. -/
theorem le16_toInt (lo hi : Byte) : (le16 lo hi).toInt = readingZ lo hi := by
  have pair : (le16 lo hi).toNat = hi.toNat * 2 ^ 8 + lo.toNat := toNat_concat hi lo
  rw [BitVec.toInt_eq_toNat_cond, pair]
  unfold readingZ
  dsimp only
  split <;> split <;> omega

/-- R202: no reading uses byte 6. -/
theorem rawAxis_set_b6 (b : Block) (v : Byte) : rawAxis { b with b6 := v } = rawAxis b := by
  funext a
  cases a <;> rfl

end Sys2Proof.Machine

/-! PROOFS. 43_decode R203 to R208: the calibrated output is the exact product, over the integers and the rationals. -/

namespace Sys2Proof.Machine

-- R208 (b), (c): the weight of a reading, the two factors beside it.

theorem scalarK_bounds (sens : Sens) : 0 < scalarK sens ∧ scalarK sens ≤ 1228 := by
  cases sens <;> decide

theorem trimNumerator_bounds (c : Byte) : 128 ≤ trimNumerator c ∧ trimNumerator c ≤ 383 := by
  have hc := c.isLt
  rw [trimNumerator]
  omega

theorem weight_pos (sens : Sens) (c : Byte) : 0 < scalarK sens * trimNumerator c :=
  mul_pos (scalarK_bounds sens).1 (by linarith [trimNumerator_bounds c])

theorem weight_le (sens : Sens) (c : Byte) : scalarK sens * trimNumerator c ≤ scalarK sens * 383 :=
  mul_le_mul_of_nonneg_left (trimNumerator_bounds c).2 (scalarK_bounds sens).1.le

-- R206, R208 (e): the product fits 35 bits.

/-- The weight is positive and at most `K * 383`, and the reading a 16-bit integer. -/
theorem calProduct_bounds (sens : Sens) (c : Byte) (r : BitVec 16) :
    scalarK sens * 383 * -32768 ≤ calProduct sens c r ∧ calProduct sens c r ≤ scalarK sens * 383 * 32767 := by
  have hlo : -32768 ≤ r.toInt := BitVec.le_toInt r
  have hhi : r.toInt ≤ 32767 := Int.le_of_lt_add_one BitVec.toInt_lt
  have hpos := (weight_pos sens c).le
  constructor
  · calc scalarK sens * 383 * -32768
      _ ≤ scalarK sens * trimNumerator c * -32768 := mul_le_mul_of_nonpos_right (weight_le sens c) (by decide)
      _ ≤ calProduct sens c r := mul_le_mul_of_nonneg_left hlo hpos
  · calc calProduct sens c r
      _ ≤ scalarK sens * trimNumerator c * 32767 := mul_le_mul_of_nonneg_left hhi hpos
      _ ≤ scalarK sens * 383 * 32767 := mul_le_mul_of_nonneg_right (weight_le sens c) (by decide)

/-- R206: no bit of the product is lost. -/
theorem calq_toInt (sens : Sens) (c : Byte) (r : BitVec 16) : (calq sens c r).toInt = calProduct sens c r := by
  obtain ⟨hlo, hhi⟩ := calProduct_bounds sens c r
  have hk := scalarK_bounds sens
  exact BitVec.toInt_ofInt_eq_self (by decide) (by omega) (by omega)

theorem calq_bounds (sens : Sens) (c : Byte) (r : BitVec 16) :
    scalarK sens * 383 * -32768 ≤ (calq sens c r).toInt ∧ (calq sens c r).toInt ≤ scalarK sens * 383 * 32767 := by
  rw [calq_toInt]
  exact calProduct_bounds sens c r

-- R208 (d), R214 (e), (f): how the output goes with the mode and the reading.

theorem calq_opt14bit_toInt (c : Byte) (r : BitVec 16) :
    (calq .opt14bit c r).toInt = 4 * (calq .opt16bit c r).toInt := by
  rw [calq_toInt, calq_toInt, calProduct, calProduct, scalarK, scalarK]
  ring

theorem calq_toInt_of_neg {q r : BitVec 16} (h : q.toInt = -r.toInt) (sens : Sens) (c : Byte) :
    (calq sens c q).toInt = -(calq sens c r).toInt := by
  rw [calq_toInt, calq_toInt, calProduct, calProduct, h, mul_neg]

theorem calq_neg_iff (sens : Sens) (c : Byte) (r : BitVec 16) : (calq sens c r).toInt < 0 ↔ r.toInt < 0 := by
  rw [calq_toInt, calProduct, ← mul_lt_mul_iff_right₀ (b := r.toInt) (weight_pos sens c), mul_zero]

theorem calq_eq_zero_iff (sens : Sens) (c : Byte) (r : BitVec 16) : (calq sens c r).toInt = 0 ↔ r.toInt = 0 := by
  rw [calq_toInt, calProduct, mul_eq_zero_iff_left (weight_pos sens c).ne']

-- R203 to R205: the source's formula, the binary point split over its two factors.

theorem scalarQ_eq (sens : Sens) : scalarQ sens = scalarK sens / 2 ^ 11 := by
  cases sens <;> norm_num [scalarQ, scalarK]

theorem adjQ_eq (c : Byte) : adjQ c = trimNumerator c / 2 ^ 8 := by
  rw [adjQ, trimNumerator]
  push_cast
  ring

/-- R203: trim 128 is the neutral one. -/
theorem adjQ_128 : adjQ 128 = 1 := by
  have neutral : trimNumerator 128 = 2 ^ 8 := by decide
  rw [adjQ_eq, neutral]
  norm_num

/-- R206: the output over 2^19 is the formula of R205. -/
theorem fieldQ_calq (sens : Sens) (c : Byte) (r : BitVec 16) :
    fieldQ (calq sens c r) = scalarQ sens * adjQ c * (r.toInt : ℚ) := by
  rw [fieldQ, calq_toInt, calProduct, scalarQ_eq, adjQ_eq]
  push_cast
  ring

end Sys2Proof.Machine

/-! PROOFS. 43_decode R212, R213: DECODE in an idle phase, and the command words refused without a configuration. -/

namespace Sys2Proof.Machine

/-- R212: with a configuration DECODE's word is taken and answered in one step, which is what `State.refuse` does with
any response. -/
theorem exec_decode_completes {s : State} (b : Block) (idle : s.phase.isIdle = true) (hc : s.cfgValid = true) :
    exec (.decode b) s =
      .next (s.refuse (encodeDecode b) (decodeResponse (sampleDecode b s.sens.val s.asa.val) false)) := by
  show execDecode b s = _
  rw [execDecode, if_pos idle, if_pos hc]
  rfl

theorem exec_decode_refused {s : State} (b : Block) (idle : s.phase.isIdle = true) (hc : s.cfgValid = false) :
    exec (.decode b) s = .next (s.refuse (encodeDecode b) .refusedNotConfigured) := by
  show execDecode b s = _
  rw [execDecode, if_pos idle, if_neg (by simp [hc])]

theorem exec_sample_refused {s : State} (idle : s.phase.isIdle = true) (hc : s.cfgValid = false) :
    exec .sample s = .next (s.refuse encodeSample .refusedNotConfigured) := by
  show execSample s = _
  rw [execSample, if_pos idle, if_neg (by simp [hc])]

end Sys2Proof.Machine

/-! PROOFS. The statements of 43_decode settled. -/

namespace Sys2Proof.Machine

/-- Settles O17: the answer of DECODE is the response of the decoded block (R212). -/
theorem decodeCompletes : Obligations.DecodeCompletes := by
  intro s b idle hc
  rw [exec_decode_completes b idle hc, refuse_eq]
  exact ⟨_, rfl, decodeResponse_spec _ _⟩

/-- Settles O18: the refusing branches of DECODE and SAMPLE. -/
theorem refusedWithoutConfiguration : Obligations.RefusedWithoutConfiguration := by
  intro s b idle hc
  rw [exec_decode_refused b idle hc, exec_sample_refused idle hc, refuse_eq, refuse_eq]
  exact ⟨rfl, rfl⟩

/-- Settles O35: the byte pairs by `le16_toInt`, the formula axis by axis by `fieldQ_calq`. -/
theorem decodeMatchesRationalFormula : Obligations.DecodeMatchesRationalFormula := by
  intro b sens asa d h
  rw [sampleDecode_eq_some h]
  refine ⟨le16_toInt _ _, le16_toInt _ _, le16_toInt _ _, fun a => ?_, rfl⟩
  rw [Axes.get_build, Axes.get_build]
  exact fieldQ_calq sens (asa.get a) (rawAxis b a)

/-- Settles O36: the bounds hold in each mode by `calq_bounds`, and the four corners are computed. -/
theorem calibratedRange : Obligations.CalibratedRange :=
  ⟨calq_bounds .opt14bit, calq_bounds .opt16bit, by decide, by decide, by decide, by decide⟩

/-- Settles O37: trim 128 is the factor 1 of the rational formula. -/
theorem calibrationLaws : Obligations.CalibrationLaws := by
  intro c r
  refine ⟨calq_opt14bit_toInt c r, fun q hq sens => calq_toInt_of_neg hq sens c,
    fun sens => ⟨calq_neg_iff sens c r, calq_eq_zero_iff sens c r⟩, fun sens => ?_⟩
  rw [fieldQ_calq, adjQ_128, mul_one]

/-- Settles O38: byte 6 decides saturation by the mask alone, and no reading uses it. -/
theorem decodeIgnoresUnnamedBits : Obligations.DecodeIgnoresUnnamedBits := by
  intro b v sens asa hm
  have hsat : hofl { b with b6 := v } = hofl b := by rw [hofl_eq_decide, hofl_eq_decide, hm]
  rw [sampleDecode, sampleDecode, hsat, rawAxis_set_b6]

/-- Settles O34: the test of R201 is the branch of the decoder. -/
theorem saturationIsAbsence : Obligations.SaturationIsAbsence := by
  intro b sens asa
  constructor <;> intro hm
  · exact sampleDecode_of_saturated (by simpa [hofl_eq_decide] using hm) sens asa
  · exact ⟨_, sampleDecode_of_unsaturated (by simpa [hofl_eq_decide] using hm) sens asa⟩

/-- Settles O39: closed facts. -/
theorem workedExamplesDecode : Obligations.WorkedExamplesDecode := by
  unfold Obligations.WorkedExamplesDecode
  decide

end Sys2Proof.Machine

/-! PROOFS. 60_exceptions R235, R236, R243, R246: what a step finds to do by the host's move, the host's moves while a
command runs, and the delay timer. -/

namespace Sys2Proof.Machine

-- R236: the host's move. An illegal word, a command and Reset are `step_illegal`, `step_command` and `step_reset`.

theorem fetch_of_noMove {s : State} (h : s.host = []) : fetch s = fetchMicroOp s := by
  rw [fetch, h]

theorem fetch_of_pause {s : State} {moves : List HostMove} (h : s.host = .pause :: moves) :
    fetch s = fetchMicroOp (s.withHost moves) := by
  rw [fetch, h]

/-- A word offered while a command runs waits. -/
theorem fetch_of_waitingWord {s : State} {w : Word} {moves : List HostMove} (busy : s.phase.isIdle = false)
    (h : s.host = .cmd w :: moves) : fetch s = fetchMicroOp s := by
  simp [fetch, h, busy]

/-- With a pause move the micro-operation runs on the state with the move taken. -/
theorem step_of_pause {s : State} {moves : List HostMove} {i : Instr} (hm : s.microOp = some i)
    (h : s.host = .pause :: moves) : step s = exec i (s.withHost moves) := by
  have taken : (s.withHost moves).microOp = some i := hm
  rw [step, fetch_of_pause h, fetchMicroOp, taken]

/-- No command is accepted in a busy phase. -/
theorem exec_command_of_busy {s : State} (busy : s.phase.isIdle = false) :
    (∀ rate sens addrValid addr bus, exec (.init rate sens addrValid addr bus) s = .next s) ∧
      exec .sample s = .next s ∧ ∀ b, exec (.decode b) s = .next s := by
  have notIdle : ¬ s.phase.isIdle = true := by simp [busy]
  exact ⟨fun _ _ _ _ _ => if_neg notIdle, if_neg notIdle, fun _ => if_neg notIdle⟩

-- R236: the host's moves are taken by the fetch alone.

@[simp] theorem phaseEffect_host (d : Block) (s : State) : (phaseEffect d s).host = s.host := by
  cases hd : drdy d.b0 <;> cases hp : s.phase <;> simp [phaseEffect, hp, hd, State.endSample, State.completeInit]

@[simp] theorem busError_host (e : BusErr) (s : State) : (s.busError e).host = s.host := by
  cases hi : s.phase.inInit
  · rw [busError_notInit e hi]
    rfl
  · rw [busError_inInit e hi]
    rfl

theorem exec_microOp_host {i : Instr} {s t : State} (hm : s.microOp = some i) (h : exec i s = .next t) :
    t.host = s.host := by
  rcases exec_microOp_cases hm h with ⟨-, rfl⟩ | ⟨_, _, _, -, -, rfl⟩ | ⟨_, _, -, rfl⟩ | ⟨-, ht⟩
  · rfl
  · simp
  · simp
  · rw [ht ⟨0, 0, 0, 0, 0, 0, 0⟩, phaseEffect_host]

-- R243: a step answers next.

/-- A step that finds no word and no Reset answers next: it runs the phase's micro-operation or waits. -/
theorem step_total_of_fetchMicroOp {s u : State} (h : fetch s = fetchMicroOp u) : ∃ t, step s = .next t := by
  rcases step_fetchMicroOp h with ⟨i, hm, hs⟩ | ⟨-, hs⟩
  · rw [hs]
    exact exec_microOp_total hm
  · exact ⟨u, hs⟩

/-- A step with a word offered in an idle phase answers next: it refuses the word or runs its command. -/
theorem step_total_of_offeredWord {s : State} {w : Word} {moves : List HostMove} (idle : s.phase.isIdle = true)
    (h : s.host = .cmd w :: moves) : ∃ t, step s = .next t := by
  cases hd : decodeCommand w with
  | error why => exact ⟨_, step_illegal idle h hd⟩
  | ok i =>
    rw [step_command idle h hd]
    exact exec_command_total _ hd

-- R246: the delay timer. Every phase is entered by `State.enter`, which loads or empties it.

theorem busError_timerByPhase (e : BusErr) (s : State) : (s.busError e).TimerByPhase := by
  cases hi : s.phase.inInit
  · rw [busError_notInit e hi]
    rfl
  · rw [busError_inInit e hi]
    rfl

/-- Whatever the timer held before: the effect of a busy phase enters the next one. -/
theorem phaseEffect_timerByPhase (d : Block) {s : State} (busy : s.phase.isIdle = false) :
    (phaseEffect d s).TimerByPhase := by
  cases hd : drdy d.b0 <;> cases hp : s.phase <;>
    simp_all [State.TimerByPhase, phaseEffect, State.endSample, State.completeInit, Phase.isIdle]

theorem keeps_timerByPhase : Keeps State.TimerByPhase where
  outside _ _ _ h := h
  reset _ _ := rfl
  refuse _ _ _ _ h := h
  init _ _ _ _ _ _ _ _ := rfl
  sample _ _ _ _ := rfl
  error _ _ _ e _ _ _ := busError_timerByPhase e _
  effect _ d busy _ := phaseEffect_timerByPhase d busy

end Sys2Proof.Machine

/-! PROOFS. The statements of 60_exceptions settled. -/

namespace Sys2Proof.Machine

/-- Settles O44: the changes that make up a step keep it. -/
theorem timerKept : Obligations.TimerKept :=
  fun _ _ hs h => keeps_timerByPhase.step hs h

/-- Settles O9, by the host's next move: a Reset, a word taken in an idle phase, or else the phase goes on. -/
theorem stepNeverStops : Obligations.StepNeverStops := by
  intro s
  cases hh : s.host with
  | nil => exact step_total_of_fetchMicroOp (fetch_of_noMove hh)
  | cons move moves =>
    cases move with
    | reset => exact ⟨_, step_reset hh⟩
    | pause => exact step_total_of_fetchMicroOp (fetch_of_pause hh)
    | cmd w =>
      cases hi : s.phase.isIdle with
      | true => exact step_total_of_offeredWord hi hh
      | false => exact step_total_of_fetchMicroOp (fetch_of_waitingWord hi hh)

/-- Settles O15: the refusal of an illegal word, written out. -/
theorem illegalWordRefused : Obligations.IllegalWordRefused := by
  intro s w rest why hp hh hd
  rw [step_illegal (Phase.isIdle_iff.mpr hp) hh hd, refuse_eq]
  rfl

/-- Settles O19: a word offered in a busy phase leaves the host quiet, so that the step is the phase's
micro-operation, which takes no host move. -/
theorem commandsWaitWhileBusy : Obligations.CommandsWaitWhileBusy := by
  intro s busy
  obtain ⟨hinit, hsample, hdecode⟩ := exec_command_of_busy busy
  refine ⟨hinit, hsample, hdecode, fun w rest t hh h => ?_⟩
  obtain ⟨i, hm⟩ := Option.isSome_iff_exists.mp (microOp_isSome_iff.mpr busy)
  have hq : quiet s.host = true := by rw [hh, quiet]
  rw [step_of_quiet hm hq] at h
  exact exec_microOp_host hm h

/-- Settles O7: the three moves of a host that lets an instruction run. -/
theorem stepRunsDecodedInstruction : Obligations.StepRunsDecodedInstruction :=
  ⟨fun _ _ _ _ idle hh hd => step_command idle hh hd, fun _ _ hm hq => step_of_quiet hm hq,
    fun _ _ _ hm hh => step_of_pause hm hh⟩

end Sys2Proof.Machine

/-! PROOFS. The statement of 70_reset_and_hazards settled. -/

namespace Sys2Proof.Machine

/-- Settles O10: a Reset move is taken in any phase (`step_reset`), and the fields are read off `State.takeReset`, which
keeps of the state before only the parameters, what is to come from outside and the counter. -/
theorem resetFromAnyPhase : Obligations.ResetFromAnyPhase := by
  intro s rest hh
  refine ⟨(s.withHost rest).takeReset, step_reset hh, ?_⟩
  exact ⟨rfl, rfl, rfl, rfl, rfl, rfl, rfl, rfl, rfl, rfl, rfl, rfl, rfl, rfl, rfl, rfl⟩

end Sys2Proof.Machine
